-- ==== Sys2Proof/Word.lean ====
section
/-! DEFINITION. The two widths the engine moves (R15) and the two enumerations of the Register Store
(R21, R22). All values are unsigned; the engine has no signed quantity. -/

namespace Sys2Proof

/-- A byte: 8 bits, bit 7 the most significant (R15). -/
abbrev Byte := BitVec 8

/-- A `u16`: 16 bits, bit 15 the most significant (R15). Register addresses and register values are words. -/
abbrev Word := BitVec 16

/-- The two values of `RS.mode`, in the order of the spec (R21). -/
inductive Mode where
  | day
  | night
deriving DecidableEq, Repr, Inhabited

/-- The two values of `RS.acState`, in the order of the spec (R22). -/
inductive AcState where
  | mainsOk
  | mainsLost
deriving DecidableEq, Repr, Inhabited

end Sys2Proof
end

