-- ==== Sys2Proof/Config.lean ====
section
/-! DEFINITION. The constants the spec fixes (R6), the configuration record `CFG` with every parameter it
leaves open (R7), the check that refuses an ill-formed configuration (R8), and the one device whose
configuration nothing in Lean knows. -/

namespace Sys2Proof

namespace Const

/-- `FRAME_LEN`: bytes in a request frame (R6). -/
abbrev frameLen : Nat := 8
/-- `UNIT_ADDR`: the unit address of all supported requests (R6). -/
abbrev unitAddr : Byte := 0x06
/-- `FN_READ_RUN` (R6). -/
abbrev fnReadRun : Byte := 0x12
/-- `FN_READ_BASIC` (R6). -/
abbrev fnReadBasic : Byte := 0x16
/-- `FN_WRITE` (R6). -/
abbrev fnWrite : Byte := 0x18
/-- `BASE_RUN`: first register of the run block (R6). -/
abbrev baseRun : Word := 0x1000
/-- `BASE_BASIC`: first register of the basic/settings block (R6). -/
abbrev baseBasic : Word := 0x1024
/-- `QTY_RUN` (R6). -/
abbrev qtyRun : Word := 0x0024
/-- `QTY_BASIC` (R6). -/
abbrev qtyBasic : Word := 0x0027
/-- `REG_AC_VOLT` (R6). -/
abbrev regAcVolt : Word := 0x1001
/-- `REG_BAT_VOLT` (R6). -/
abbrev regBatVolt : Word := 0x1006
/-- `REG_PV_VOLT` (R6). -/
abbrev regPvVolt : Word := 0x1020
/-- `REG_PV_POWER` (R6). -/
abbrev regPvPower : Word := 0x1023
/-- `REG_ON_THR`: on-threshold register, wire-writable (R6). -/
abbrev regOnThr : Word := 0x1037
/-- `REG_OFF_THR`: off-threshold register, wire-writable (R6). -/
abbrev regOffThr : Word := 0x1038
/-- `EXC_FLAG`: OR-ed into the function code of an exception frame (R6). -/
abbrev excFlag : Byte := 0x80
/-- `EXC_ILLEGAL_DATA_ADDRESS`: the only exception code (R6). -/
abbrev excIllegalDataAddress : Byte := 0x02
/-- `CRC_POLY`: the reflected polynomial (R6). -/
abbrev crcPoly : Word := 0xA001
/-- `CRC_INIT`: the initial value of every checksum (R6). -/
abbrev crcInit : Word := 0xFFFF

end Const

/-- The configuration record `CFG` (R7). A field with a default has the default the spec gives it; every other
field is OPEN. The `u16` parameters are words, so R8(g) holds by type. -/
structure Cfg where
  /-- `NCHAN`: number of channels. -/
  nChan : Nat
  /-- `RXDEPTH`: receive buffer capacity per channel. -/
  rxDepth : Nat := 8
  /-- `ID_LEN`: bytes of a template's device-identifier field. -/
  idLen : Nat
  /-- `HDR_SIZE`: bytes of a template's header. -/
  hdrSize : Nat := 3 + idLen
  /-- `NREGS_RUN`: value slots of the run template. -/
  nRegsRun : Nat := 36
  /-- `NREGS_BASIC`: value slots of the basic template. -/
  nRegsBasic : Nat := 39
  /-- `TPL_RUN`: the run template, no checksum bytes (R29). -/
  tplRun : List Byte
  /-- `TPL_BASIC`: the basic/settings template, no checksum bytes (R29). -/
  tplBasic : List Byte
  /-- `PV_POWER_DAY`. -/
  pvPowerDay : Word := 12000
  /-- `PV_VOLT_DAY`. -/
  pvVoltDay : Word
  /-- `PV_POWER_NIGHT`. -/
  pvPowerNight : Word
  /-- `PV_VOLT_NIGHT`. -/
  pvVoltNight : Word
  /-- `AC_VOLT_OK`. -/
  acVoltOk : Word
  /-- `AC_VOLT_LOST`. -/
  acVoltLost : Word
  /-- `INIT_MODE`. -/
  initMode : Mode
  /-- `INIT_AC_STATE`. -/
  initAcState : AcState
  /-- `INIT_BAT_VOLT`. -/
  initBatVolt : Word
  /-- `INIT_ON_THR`. -/
  initOnThr : Word
  /-- `INIT_OFF_THR`. -/
  initOffThr : Word
deriving DecidableEq, Repr

/-- Why a configuration is refused, one name for each clause of R8 that a typed record can break. -/
inductive CfgProblem where
  /-- R8(a): `NCHAN ≥ 1` fails. -/
  | noChannel
  /-- R8(b): `RXDEPTH ≥ 8` fails. -/
  | receiveBufferTooShallow
  /-- R8(c): `HDR_SIZE = 3 + ID_LEN` fails. -/
  | headerSize
  /-- R8(d): the run template's length is not `HDR_SIZE + 2*NREGS_RUN`. -/
  | runTemplateLength
  /-- R8(d): the basic template's length is not `HDR_SIZE + 2*NREGS_BASIC`. -/
  | basicTemplateLength
  /-- R8(e): `NREGS_RUN ≥ 36` fails. -/
  | tooFewRunRegisters
  /-- R8(f): `NREGS_BASIC ≥ 21` fails. -/
  | tooFewBasicRegisters
deriving DecidableEq, Repr

/-- The first clause of R8 a configuration breaks, or none for a well-formed one. -/
def Cfg.problem (cfg : Cfg) : Option CfgProblem :=
  if cfg.nChan < 1 then some .noChannel
  else if cfg.rxDepth < 8 then some .receiveBufferTooShallow
  else if cfg.hdrSize ≠ 3 + cfg.idLen then some .headerSize
  else if cfg.tplRun.length ≠ cfg.hdrSize + 2 * cfg.nRegsRun then some .runTemplateLength
  else if cfg.tplBasic.length ≠ cfg.hdrSize + 2 * cfg.nRegsBasic then some .basicTemplateLength
  else if cfg.nRegsRun < 36 then some .tooFewRunRegisters
  else if cfg.nRegsBasic < 21 then some .tooFewBasicRegisters
  else none

/-- The `2*n` value bytes of a fixture template: slot `i` holds `tag`, `i` (configuration T0, 95_test_vectors.md). -/
def fixtureSlots (tag : Byte) (n : Nat) : List Byte :=
  (List.range n).flatMap fun i => [tag, BitVec.ofNat 8 i]

/-- Configuration T0, the spec's own test fixture (95_test_vectors.md section 2, D18). It is no claim about the
device: here it witnesses that a well-formed configuration exists, and the tests run under it. -/
def fixtureT0 : Cfg where
  nChan := 3
  idLen := 4
  tplRun := [0x06, 0x12, 0x48, 0xD1, 0xD2, 0xD3, 0xD4] ++ fixtureSlots 0xA0 36
  tplBasic := [0x06, 0x16, 0x4E, 0xD1, 0xD2, 0xD3, 0xD4] ++ fixtureSlots 0xB0 39
  pvVoltDay := 0x0708
  pvPowerNight := 0x0000
  pvVoltNight := 0x0032
  acVoltOk := 0x08FC
  acVoltLost := 0x0000
  initMode := .day
  initAcState := .mainsOk
  initBatVolt := 0x0208
  initOnThr := 0x0104
  initOffThr := 0x00F0

/-- A configuration together with the fact that R8 accepts it: no other configuration can be put into a machine,
which is how the model refuses it (R8, I8). -/
structure Device where
  /-- The parameters. -/
  cfg : Cfg := fixtureT0
  /-- R8 holds of them. -/
  wellFormed : cfg.problem = none := by decide
deriving DecidableEq, Repr, Inhabited

/-- A configuration is accepted when R8 holds of it and otherwise refused by the name of the clause it breaks. -/
def Device.ofCfg (cfg : Cfg) : Except CfgProblem Device :=
  match h : cfg.problem with
  | none => .ok ⟨cfg, h⟩
  | some p => .error p

/-- The device after power-on: SOME well-formed configuration, of which nothing is known (R7: OPEN parameters, "no
rule may assume a value"). It has no body, so no proof can see a value of it. -/
opaque Config.device : Device

end Sys2Proof
end

