-- ==== Sys2Proof/Syntax.lean ====
section
/-! DEFINITION. The request frame and its header (R81), and the instructions: one constructor for every row of
spec/opcode_table.json. An instruction of the wire carries its channel number `c`, which stands on no wire: it says
which port the frame came through (R5, R232). -/

namespace Sys2Proof

/-- The six body bytes of a request, in wire order (R81, bytes 0 to 5). -/
structure Header where
  /-- Byte 0. -/
  unitAddress : Byte
  /-- Byte 1. -/
  functionCode : Byte
  /-- Byte 2. -/
  startAddrHi : Byte
  /-- Byte 3. -/
  startAddrLo : Byte
  /-- Byte 4; in a write request the value's high byte (R83). -/
  quantityHi : Byte
  /-- Byte 5; in a write request the value's low byte (R83). -/
  quantityLo : Byte
deriving DecidableEq, Repr

/-- A request frame: the header and the two checksum bytes, low byte first (R81, bytes 6 and 7). -/
structure Frame where
  /-- Bytes 0 to 5. -/
  header : Header
  /-- Byte 6. -/
  crcLo : Byte
  /-- Byte 7. -/
  crcHi : Byte
deriving DecidableEq, Repr

/-- The instructions, one constructor per row of the opcode table (R86, R87, R100, R101). -/
inductive Instr where
  /-- `READ_RUN`: read the run block. -/
  | readRun (c : Nat)
  /-- `READ_BASIC`: read the basic/settings block. -/
  | readBasic (c : Nat)
  /-- `WRITE_REG.ON`: write the on threshold, register 0x1037. -/
  | writeRegOn (c : Nat) (value : Word)
  /-- `WRITE_REG.OFF`: write the off threshold, register 0x1038. -/
  | writeRegOff (c : Nat) (value : Word)
  /-- `WRITE_REG.ILLEGAL`: write to any other register address. -/
  | writeRegIllegal (c : Nat) (addr value : Word)
  /-- `UNKNOWN`: a checksum-valid header that matches no signature. -/
  | unknown (c : Nat) (h : Header)
  /-- `WRITE_REG`: the class row, the union of the three sub-rows above; the table calls it abstract and no decoder
  answers it (R101). -/
  | writeReg (c : Nat) (addr value : Word)
  /-- `CRC_ERROR`: a frame whose checksum fails (R188). -/
  | crcError (c : Nat) (f : Frame)
  /-- `HSTATUS`: host reads the snapshot of the store. -/
  | hstatus
  /-- `HSET_MODE`: host sets the mode. -/
  | hsetMode (m : Mode)
  /-- `HSET_AC`: host sets the AC state. -/
  | hsetAc (a : AcState)
  /-- `HSET_BAT`: host sets the battery voltage. -/
  | hsetBat (v : Word)
  /-- `HSET_ON`: host sets the on threshold. -/
  | hsetOn (v : Word)
  /-- `HSET_OFF`: host sets the off threshold. -/
  | hsetOff (v : Word)
  /-- `HRESERVED6`: reserved host code 6. -/
  | hreserved6
  /-- `HRESERVED7`: reserved host code 7. -/
  | hreserved7
  /-- `RESP_RUN`: the run response goes out (R90, R154). -/
  | respRun (c : Nat)
  /-- `RESP_BASIC`: the basic response goes out (R91, R155). -/
  | respBasic (c : Nat)
  /-- `RESP_ACK`: the acknowledgment of the write request with header `h` goes out (R92, R211). -/
  | respAck (c : Nat) (h : Header)
  /-- `RESP_EXCEPTION`: the exception frame goes out (R93, R209). -/
  | respException (c : Nat)
deriving DecidableEq, Repr

end Sys2Proof
end

