-- ==== Sys2Proof/Machine/Operands.lean ====
section
/-! DEFINITION. Byte order, field assembly and the operand forms: how bytes make words and words make bytes
(R15, R52 to R54), how a frame's bytes make its fields (R81, R82), the saturating clamp (R15, R212) and the code bits of
the two enumerations on the host port (R100). -/

namespace Sys2Proof.Machine

/-- `hi8`: the high byte of a word (R15). -/
def hi8 (v : Word) : Byte := v.extractLsb' 8 8

/-- `lo8`: the low byte of a word (R15). -/
def lo8 (v : Word) : Byte := v.extractLsb' 0 8

/-- `be16 h l`: the word whose high byte is `h` and low byte is `l` (R15). -/
def be16 (h l : Byte) : Word := BitVec.ofNat 16 (h.toNat * 256 + l.toNat)

/-- `clamp16 n`: saturation of an integer to the range of a word, not truncation (R15). -/
def clamp16 (n : Int) : Word :=
  if n < 0 then 0 else if n > 65535 then 65535 else BitVec.ofNat 16 n.toNat

/-- The value of a header field as the unbounded integer the clamp of R206 is applied to. -/
def wordInt (v : Word) : Int := v.toNat

end Sys2Proof.Machine

namespace Sys2Proof

open Machine

/-- `start` of R82: the start address, big-endian (R53). In a write request, the target register (R83). -/
def Header.start (h : Header) : Word := be16 h.startAddrHi h.startAddrLo

/-- `qty` of R82: the quantity, big-endian (R53). In a write request, the value to write (R83). -/
def Header.qty (h : Header) : Word := be16 h.quantityHi h.quantityLo

/-- The header of unit `unit`, function `fn`, with the two 16-bit fields laid out big-endian (R53, R81). -/
def Header.ofFields (unit fn : Byte) (start qty : Word) : Header :=
  ⟨unit, fn, hi8 start, lo8 start, hi8 qty, lo8 qty⟩

/-- The header of the READ_RUN request (R86). -/
def Header.readRun : Header :=
  .ofFields Const.unitAddr Const.fnReadRun Const.baseRun Const.qtyRun

/-- The header of the READ_BASIC request (R86). -/
def Header.readBasic : Header :=
  .ofFields Const.unitAddr Const.fnReadBasic Const.baseBasic Const.qtyBasic

/-- The header of a WRITE_REG request to `addr` with value `value` (R83, R86). -/
def Header.write (addr value : Word) : Header :=
  .ofFields Const.unitAddr Const.fnWrite addr value

/-- The six body bytes in wire order (R81). -/
def Header.bytes (h : Header) : List Byte :=
  [h.unitAddress, h.functionCode, h.startAddrHi, h.startAddrLo, h.quantityHi, h.quantityLo]

/-- The header as the 48-bit number `H`: byte `i` is bits `47 - 8i` down to `40 - 8i` (R81). -/
def Header.number (h : Header) : BitVec 48 :=
  h.unitAddress ++ h.functionCode ++ h.startAddrHi ++ h.startAddrLo ++ h.quantityHi ++ h.quantityLo

/-- The header whose 48-bit number is `n` (R81). -/
def Header.ofNumber (n : BitVec 48) : Header :=
  ⟨n.extractLsb' 40 8, n.extractLsb' 32 8, n.extractLsb' 24 8, n.extractLsb' 16 8, n.extractLsb' 8 8,
    n.extractLsb' 0 8⟩

/-- `body` of R82: the six bytes the checksum covers. -/
def Frame.body (f : Frame) : List Byte := f.header.bytes

/-- `crc_rx` of R82: the received checksum, little-endian on the wire (R54). -/
def Frame.crcRx (f : Frame) : Word := be16 f.crcHi f.crcLo

/-- The eight bytes of a frame in wire order (R81). -/
def Frame.bytes (f : Frame) : List Byte := f.body ++ [f.crcLo, f.crcHi]

/-- The frame as the 64-bit number `F`: byte `i` is bits `63 - 8i` down to `56 - 8i` (R81). It is also what
`diag_frame` carries (R13). -/
def Frame.number (f : Frame) : BitVec 64 := f.header.number ++ f.crcLo ++ f.crcHi

/-- The frame whose 64-bit number is `n` (R81). -/
def Frame.ofNumber (n : BitVec 64) : Frame :=
  ⟨.ofNumber (n.extractLsb' 16 48), n.extractLsb' 8 8, n.extractLsb' 0 8⟩

/-- The first eight bytes of a byte sequence as a frame, with the bytes that follow them; none while fewer than eight
bytes are there (R170, R173). -/
def Frame.take : List Byte → Option (Frame × List Byte)
  | b0 :: b1 :: b2 :: b3 :: b4 :: b5 :: b6 :: b7 :: rest => some (⟨⟨b0, b1, b2, b3, b4, b5⟩, b6, b7⟩, rest)
  | _ => none

/-- The host port's code bit of a mode: 0 day, 1 night (R100). -/
def Mode.bit : Mode → Bool
  | .day => false
  | .night => true

/-- The mode a code bit names (R100, R134). -/
def Mode.ofBit (b : Bool) : Mode := if b then .night else .day

/-- The host port's code bit of an AC state: 0 mainsOk, 1 mainsLost (R100). -/
def AcState.bit : AcState → Bool
  | .mainsOk => false
  | .mainsLost => true

/-- The AC state a code bit names (R100, R134). -/
def AcState.ofBit (b : Bool) : AcState := if b then .mainsLost else .mainsOk

/-- `h_wdata` with bit 0 set as given and bits 15:1 zero (R100: bits 15:1 are ignored). -/
def wdataOfBit (b : Bool) : Word := if b then 1 else 0

end Sys2Proof
end

