-- ==== Sys2Proof/Machine/Crc.lean ====
section
/-! DEFINITION. The CRC-16 generator and validator (40_crc16.md, R110 to R120). How a data byte enters the register is
PRESUMED by the spec itself (G1); see notes/assumptions/1.md. -/

namespace Sys2Proof.Machine

/-- One shift of R111: bit 0 leaves at the right, zero enters at bit 15, and the polynomial is applied when the bit
shifted out is 1. -/
def crcShift (crc : Word) : Word :=
  if crc.getLsbD 0 then (crc >>> 1) ^^^ Const.crcPoly else crc >>> 1

/-- `crc_update`: the byte enters the low eight bits, then eight shifts (R111). -/
def crcUpdate (crc : Word) (b : Byte) : Word :=
  Nat.iterate crcShift 8 (crc ^^^ b.setWidth 16)

/-- `crc16`: the checksum of a byte sequence of any length, first byte first (R112). -/
def crc16 (s : List Byte) : Word := s.foldl crcUpdate Const.crcInit

/-- `crc_bit`: one single-bit step of the bit-serial form (R113). -/
def crcBit (crc : Word) (d : Bool) : Word :=
  if Bool.xor (crc.getLsbD 0) d then (crc >>> 1) ^^^ Const.crcPoly else crc >>> 1

/-- The bit-serial byte step: the bits of `b` from bit 0 to bit 7 (R113). -/
def crcUpdateSerial (crc : Word) (b : Byte) : Word :=
  (List.range 8).foldl (fun r k => crcBit r (b.getLsbD k)) crc

/-- `appendChecksum`: the sequence and its checksum, low byte first (R114). -/
def appendChecksum (s : List Byte) : List Byte := s ++ [lo8 (crc16 s), hi8 (crc16 s)]

/-- `crcValid`: the last two bytes are the little-endian checksum of the bytes before them (R116). The rule speaks of two
bytes or more; a shorter sequence holds no checksum and is not valid. -/
def crcValid (f : List Byte) : Bool :=
  let n := f.length
  decide (2 ≤ n) && be16 (f.getD (n - 1) 0) (f.getD (n - 2) 0) == crc16 (f.take (n - 2))

/-- The frame of a header: its six bytes and their fresh checksum (R80, R114). -/
def frameOf (h : Header) : Frame := ⟨h, lo8 (crc16 h.bytes), hi8 (crc16 h.bytes)⟩

/-- The validator on a request frame (R116, R187). -/
def frameValid (f : Frame) : Bool := crcValid f.bytes

end Sys2Proof.Machine
end

