-- ==== Sys2Proof/Machine/State.lean ====
section
/-! DEFINITION. The state of the engine (10_state.md), the reasons a step can stop, and the state after reset (R250). Beside
what the spec calls state, `State` carries three things so that one step is one function of it: the constant configuration,
the turns still to come (the interleaving of R17) and the history of what left the engine (R13 lets a model record it). -/

namespace Sys2Proof.Machine

/-- The Register Store `RS`: five fields, one copy, shared by all channels and the host (R20, R21 to R25). -/
structure Store where
  /-- `RS.mode` (R21). -/
  mode : Mode
  /-- `RS.acState` (R22). -/
  acState : AcState
  /-- `RS.batteryVoltage` (R23). -/
  batteryVoltage : Word
  /-- `RS.onThreshold` (R24). -/
  onThreshold : Word
  /-- `RS.offThreshold` (R25). -/
  offThreshold : Word
deriving DecidableEq, Repr

/-- What is private to one channel (R20, R232). -/
structure Channel where
  /-- `rxbuf[c]`: bytes received and not yet dispatched, oldest first (R30). -/
  rxbuf : List Byte
  /-- `txbuf[c]`: bytes of the latest response not yet handed to the transport, next byte first (R31). -/
  txbuf : List Byte
  /-- The CRC accumulator: the checksum of the last computation (R32). No rule reads it between steps. -/
  crc : Word
deriving DecidableEq, Repr

/-- A channel right after `RESET`: both buffers empty (R38). The accumulator's value is a DESIGN CHOICE: the spec calls it
unspecified and irrelevant (R38); see notes/assumptions/2.md. -/
def Channel.empty : Channel := ⟨[], [], Const.crcInit⟩

/-- One turn: an agent of R17 is given the chance to take its step. A turn whose step is not enabled changes nothing, as a
transfer does not happen while a port's ready or valid signal is low (R9, R10). -/
inductive Turn where
  /-- The transport offers byte `b` on channel `c` (`RX`, R171). -/
  | rx (c : Nat) (b : Byte)
  /-- The engine of channel `c` may process a frame (`DISPATCH`, R186). -/
  | dispatch (c : Nat)
  /-- The transport is ready to take a byte from channel `c` (`TX`, R199). -/
  | tx (c : Nat)
  /-- The transport asserts `ch_clear[c]` (`CLEAR`, R176). -/
  | clear (c : Nat)
  /-- The host performs one operation (`HOST`, R134). -/
  | host (op : BitVec 3) (wdata : Word)
  /-- `rst` is asserted (`RESET`, R250). -/
  | reset
deriving DecidableEq, Repr

/-- The kinds of diagnostic event (R226). Kind 3 is reserved and never emitted (I13), so it has no constructor. -/
inductive DiagKind where
  /-- Kind 0: the checksum of a frame fails. -/
  | crcError
  /-- Kind 1: a checksum-valid frame matches no signature. -/
  | unknown
  /-- Kind 2: a write to a register that is not wire-writable. -/
  | illegalAddress
deriving DecidableEq, Repr

/-- What leaves the engine in a step: a response byte with its `tx_last` mark (R10, R199), a diagnostic event (R13, R226), or
the snapshot `HSTATUS` returns (R141). -/
inductive Output where
  /-- Byte `b` leaves channel `c`; `last` marks the last byte of a response. -/
  | byte (c : Nat) (b : Byte) (last : Bool)
  /-- A diagnostic event of channel `c` with the eight bytes of the frame. -/
  | event (c : Nat) (kind : DiagKind) (frame : Frame)
  /-- The store as `HSTATUS` returns it to the host. -/
  | snapshot (rs : Store)
deriving DecidableEq, Repr

/-- The machine. -/
structure State where
  /-- The configuration and the fact that it is well formed: constant, written by no step (R7, R36). -/
  device : Device
  /-- The Register Store (R21 to R25). -/
  rs : Store
  /-- The channels, number `c` at position `c` (R5, R232). -/
  chans : List Channel
  /-- MODEL: the turns still to come, in order: the interleaving of the agents' steps, which R17 leaves free. -/
  schedule : List Turn
  /-- MODEL: what has left the engine, oldest first (outputs are kept nowhere in the engine, R36). -/
  outputs : List Output
deriving DecidableEq, Repr

/-- The configuration record `CFG` (R7). -/
abbrev State.cfg (s : State) : Cfg := s.device.cfg

/-- Why the machine stops. The spec has no fault state (R221, and 93_implementation_defined.md: no behaviour of the engine is
`stuck` or `fault`); the one fault is of a turn or an instruction that names a channel the device does not have. -/
inductive Fault where
  /-- Raised by every operation on a channel number that is not in `[0, NCHAN)`: there is no such port (R5, R9). Safe: no
  hardware does anything there. -/
  | noSuchChannel (c : Nat)
deriving DecidableEq, Repr

/-- Why an instruction has no meaning. -/
inductive Refusal where
  /-- Raised by `exec` for an instruction without a meaning. Safe. No arm of `exec` raises it: every row is modelled. -/
  | notModelled (mnemonic : String)
deriving DecidableEq, Repr

/-- The store after `RESET`: the five configured initial values (R38, R250). -/
def Store.initial (cfg : Cfg) : Store :=
  ⟨cfg.initMode, cfg.initAcState, cfg.initBatVolt, cfg.initOnThr, cfg.initOffThr⟩

/-- The machine of a device right after reset: configured store, every channel empty (R38), nothing scheduled, nothing sent. -/
def State.initial (d : Device) : State where
  device := d
  rs := Store.initial d.cfg
  chans := List.replicate d.cfg.nChan Channel.empty
  schedule := []
  outputs := []

/-- The machine right after reset (R250), for the device of which only well-formedness is known. -/
def State.reset : State := State.initial Config.device

end Sys2Proof.Machine
end

