-- ==== Sys2Proof/Machine/RegisterStore.lean ====
section
/-! DEFINITION. The Register Store's getters and mutators (41_register_store.md) and the host's view of it. -/

namespace Sys2Proof.Machine

/-- The pair `currentTelemetry` returns (R131). -/
structure Telemetry where
  /-- PV voltage. -/
  pvVoltage : Word
  /-- PV power. -/
  pvPower : Word
deriving DecidableEq, Repr

/-- `currentTelemetry()`: the configured pair of the mode (R131). -/
def Store.currentTelemetry (cfg : Cfg) (rs : Store) : Telemetry :=
  match rs.mode with
  | .day => ⟨cfg.pvVoltDay, cfg.pvPowerDay⟩
  | .night => ⟨cfg.pvVoltNight, cfg.pvPowerNight⟩

/-- `currentAcVoltage()`: the configured constant of the AC state (R132). -/
def Store.currentAcVoltage (cfg : Cfg) (rs : Store) : Word :=
  match rs.acState with
  | .mainsOk => cfg.acVoltOk
  | .mainsLost => cfg.acVoltLost

/-- `setMode` (R133, R135). -/
def Store.setMode (rs : Store) (m : Mode) : Store := { rs with mode := m }

/-- `setAcState` (R133, R136). -/
def Store.setAcState (rs : Store) (a : AcState) : Store := { rs with acState := a }

/-- `setBatteryVoltage` (R133, R137). -/
def Store.setBatteryVoltage (rs : Store) (v : Word) : Store := { rs with batteryVoltage := v }

/-- `setOnThreshold`: one mutator for the wire and the host (R133, R138, R207). -/
def Store.setOnThreshold (rs : Store) (v : Word) : Store := { rs with onThreshold := v }

/-- `setOffThreshold`: one mutator for the wire and the host (R133, R139, R210). -/
def Store.setOffThreshold (rs : Store) (v : Word) : Store := { rs with offThreshold := v }

/-- `h_rdata`: bit 49 the mode, bit 48 the AC state, then the battery voltage, the on and the off threshold (R100). -/
def Store.hRdata (rs : Store) : BitVec 50 :=
  BitVec.ofBool rs.mode.bit ++ BitVec.ofBool rs.acState.bit ++ rs.batteryVoltage ++ rs.onThreshold ++ rs.offThreshold

end Sys2Proof.Machine
end

