-- ==== Sys2Proof/Machine/Synth.lean ====
section
/-! DEFINITION. The response synthesizer: register multiplexer and template patching unit (42_response_synthesizer.md), the
device registers as a response presents them (R27), and the other two response bodies (R92, R93). -/

namespace Sys2Proof.Machine

/-- A block: the triple of a template, the register address of its first slot, and its number of slots (42, head). -/
structure Block where
  /-- The template bytes. -/
  tpl : List Byte
  /-- The register address of slot 0. -/
  base : Word
  /-- The number of slots. -/
  nregs : Nat
deriving DecidableEq, Repr

/-- `RUN` (42, head). -/
def runBlock (cfg : Cfg) : Block := ⟨cfg.tplRun, Const.baseRun, cfg.nRegsRun⟩

/-- `BASIC` (42, head). -/
def basicBlock (cfg : Cfg) : Block := ⟨cfg.tplBasic, Const.baseBasic, cfg.nRegsBasic⟩

/-- `index`: the slot number of a register address, a mathematical integer (R151). -/
def slotIndex (blk : Block) (a : Word) : Int := (a.toNat : Int) - blk.base.toNat

/-- The byte offset of slot number `i` (R29, R151). -/
def slotOffset (hdrSize i : Nat) : Nat := hdrSize + 2 * i

/-- `MemWrite(resp, o, 2, v)`: the two bytes of a value, high byte first (R16, R52). -/
def write16 (resp : List Byte) (o : Nat) (v : Word) : List Byte := (resp.set o (hi8 v)).set (o + 1) (lo8 v)

/-- The two bytes at an offset as a value, high byte first (R52). -/
def read16 (bytes : List Byte) (o : Nat) : Word := be16 (bytes.getD o 0) (bytes.getD (o + 1) 0)

/-- `Patch`: one patch, skipped when the address is outside the block (R152, R153). -/
def patch (hdrSize : Nat) (blk : Block) (resp : List Byte) (a v : Word) : List Byte :=
  let i := slotIndex blk a
  if 0 ≤ i ∧ i < blk.nregs then write16 resp (slotOffset hdrSize i.toNat) v else resp

/-- The patched copy of the template, patches in list order (R150, R157). -/
def patchAll (hdrSize : Nat) (blk : Block) (patches : List (Word × Word)) : List Byte :=
  patches.foldl (fun resp p => patch hdrSize blk resp p.1 p.2) blk.tpl

/-- `buildResponse`: the patched copy and a fresh checksum (R150). -/
def buildResponse (hdrSize : Nat) (blk : Block) (patches : List (Word × Word)) : List Byte :=
  appendChecksum (patchAll hdrSize blk patches)

/-- The patch list of the run response (R154). -/
def runPatches (cfg : Cfg) (rs : Store) : List (Word × Word) :=
  let t := rs.currentTelemetry cfg
  [(Const.regPvVolt, t.pvVoltage), (Const.regPvPower, t.pvPower), (Const.regBatVolt, rs.batteryVoltage),
    (Const.regAcVolt, rs.currentAcVoltage cfg)]

/-- The patch list of the basic response (R155). -/
def basicPatches (rs : Store) : List (Word × Word) :=
  [(Const.regOnThr, rs.onThreshold), (Const.regOffThr, rs.offThreshold)]

/-- The body of the run response: what its checksum covers (R90, R154). -/
def runBody (cfg : Cfg) (rs : Store) : List Byte := patchAll cfg.hdrSize (runBlock cfg) (runPatches cfg rs)

/-- The body of the basic response (R91, R155). -/
def basicBody (cfg : Cfg) (rs : Store) : List Byte := patchAll cfg.hdrSize (basicBlock cfg) (basicPatches rs)

/-- The body of the exception frame (R93, R209): the request's unit address, its function code with bit 7 set, the code. -/
def exceptionBody (unit fn : Byte) : List Byte := [unit, fn ||| Const.excFlag, Const.excIllegalDataAddress]

/-- `runResponse()` (R154). -/
def runResponse (cfg : Cfg) (rs : Store) : List Byte := appendChecksum (runBody cfg rs)

/-- `basicResponse()` (R155). -/
def basicResponse (cfg : Cfg) (rs : Store) : List Byte := appendChecksum (basicBody cfg rs)

/-- `ackFrame`: the echo of the six body bytes with a fresh checksum (R92, R211). -/
def ackFrame (h : Header) : List Byte := appendChecksum h.bytes

/-- `exceptionFrame` (R93, R209). -/
def exceptionFrame (unit fn : Byte) : List Byte := appendChecksum (exceptionBody unit fn)

/-- `x[a]` as the run response presents it; none outside the run block (R27). -/
def runRegister (cfg : Cfg) (rs : Store) (a : Word) : Option Word :=
  if Const.baseRun.toNat ≤ a.toNat ∧ a.toNat < Const.baseRun.toNat + cfg.nRegsRun then
    some (if a = Const.regAcVolt then rs.currentAcVoltage cfg
      else if a = Const.regBatVolt then rs.batteryVoltage
      else if a = Const.regPvVolt then (rs.currentTelemetry cfg).pvVoltage
      else if a = Const.regPvPower then (rs.currentTelemetry cfg).pvPower
      else read16 cfg.tplRun (slotOffset cfg.hdrSize (a.toNat - Const.baseRun.toNat)))
  else none

/-- `x[a]` as the basic response presents it; none outside the basic block (R27). -/
def basicRegister (cfg : Cfg) (rs : Store) (a : Word) : Option Word :=
  if Const.baseBasic.toNat ≤ a.toNat ∧ a.toNat < Const.baseBasic.toNat + cfg.nRegsBasic then
    some (if a = Const.regOnThr then rs.onThreshold
      else if a = Const.regOffThr then rs.offThreshold
      else read16 cfg.tplBasic (slotOffset cfg.hdrSize (a.toNat - Const.baseBasic.toNat)))
  else none

/-- The structured form of a block (R158): its header bytes. -/
def blockHeader (hdrSize : Nat) (blk : Block) : List Byte := blk.tpl.take hdrSize

/-- The structured form of a block (R158): the list of its slot values. -/
def blockSlots (hdrSize : Nat) (blk : Block) : List Word :=
  (List.range blk.nregs).map fun i => read16 blk.tpl (slotOffset hdrSize i)

/-- A patch of the structured form replaces the slot of the address where it exists (R158). -/
def patchSlots (blk : Block) (slots : List Word) (a v : Word) : List Word :=
  let i := slotIndex blk a
  if 0 ≤ i then slots.set i.toNat v else slots

/-- Serialisation of the structured form: header, slots high byte first, checksum (R158). -/
def serialise (header : List Byte) (slots : List Word) : List Byte :=
  appendChecksum (header ++ slots.flatMap fun v => [hi8 v, lo8 v])

/-- The response built in the structured form (R158). -/
def structuredResponse (hdrSize : Nat) (blk : Block) (patches : List (Word × Word)) : List Byte :=
  serialise (blockHeader hdrSize blk)
    (patches.foldl (fun slots p => patchSlots blk slots p.1 p.2) (blockSlots hdrSize blk))

end Sys2Proof.Machine
end

