-- ==== Sys2Proof/WellFormed.lean ====
section
/-! DEFINITION. Which terms of `Instr` are instructions of the engine: the channel is one of the device's (R5, R7), and the
operands are ones the row's encoding admits (R86 to R88, R92). -/

namespace Sys2Proof

open Machine

/-- The header matches one of the three request signatures (R86). -/
def Header.supported (h : Header) : Bool :=
  h.unitAddress == Const.unitAddr &&
    ((h.functionCode == Const.fnReadRun && h.start == Const.baseRun && h.qty == Const.qtyRun) ||
     (h.functionCode == Const.fnReadBasic && h.start == Const.baseBasic && h.qty == Const.qtyBasic) ||
     h.functionCode == Const.fnWrite)

/-- The wire-writable register addresses (R62). -/
def wireWritable (addr : Word) : Bool := addr == Const.regOnThr || addr == Const.regOffThr

/-- The header is a write request to a wire-writable register: the only requests that are acknowledged (R92). -/
def Header.acknowledged (h : Header) : Bool :=
  h.unitAddress == Const.unitAddr && h.functionCode == Const.fnWrite && wireWritable h.start

/-- The channel an instruction of the wire belongs to; none for a host operation. -/
def Instr.channel : Instr → Option Nat
  | .readRun c => some c
  | .readBasic c => some c
  | .writeRegOn c _ => some c
  | .writeRegOff c _ => some c
  | .writeRegIllegal c _ _ => some c
  | .unknown c _ => some c
  | .writeReg c _ _ => some c
  | .crcError c _ => some c
  | .hstatus => none
  | .hsetMode _ => none
  | .hsetAc _ => none
  | .hsetBat _ => none
  | .hsetOn _ => none
  | .hsetOff _ => none
  | .hreserved6 => none
  | .hreserved7 => none
  | .respRun c => some c
  | .respBasic c => some c
  | .respAck c _ => some c
  | .respException c => some c

/-- The instruction is an outgoing frame: a row of the table's direction `out` (R101). -/
def Instr.isResponse : Instr → Bool
  | .readRun _ => false
  | .readBasic _ => false
  | .writeRegOn _ _ => false
  | .writeRegOff _ _ => false
  | .writeRegIllegal _ _ _ => false
  | .unknown _ _ => false
  | .writeReg _ _ _ => false
  | .crcError _ _ => false
  | .hstatus => false
  | .hsetMode _ => false
  | .hsetAc _ => false
  | .hsetBat _ => false
  | .hsetOn _ => false
  | .hsetOff _ => false
  | .hreserved6 => false
  | .hreserved7 => false
  | .respRun _ => true
  | .respBasic _ => true
  | .respAck _ _ => true
  | .respException _ => true

/-- The operands are ones the row's encoding admits. -/
def Instr.operandsAdmitted : Instr → Bool
  | .readRun _ => true
  | .readBasic _ => true
  | .writeRegOn _ _ => true
  | .writeRegOff _ _ => true
  | .writeRegIllegal _ addr _ => !wireWritable addr
  | .unknown _ h => !h.supported
  | .writeReg _ _ _ => true
  | .crcError _ f => !frameValid f
  | .hstatus => true
  | .hsetMode _ => true
  | .hsetAc _ => true
  | .hsetBat _ => true
  | .hsetOn _ => true
  | .hsetOff _ => true
  | .hreserved6 => true
  | .hreserved7 => true
  | .respRun _ => true
  | .respBasic _ => true
  | .respAck _ h => h.acknowledged
  | .respException _ => true

/-- An instruction of the engine with configuration `cfg`. -/
def Instr.wellFormed (cfg : Cfg) (i : Instr) : Bool :=
  (match i.channel with
   | some c => decide (c < cfg.nChan)
   | none => true) && i.operandsAdmitted

end Sys2Proof
end

