-- ==== Sys2Proof/Decode.lean ====
section
/-! DEFINITION. Decoding: from bytes on a channel, a host operation code or the bytes of an outgoing frame to an instruction,
total, rejecting by name; the classifier of R190 and the table of R85 beside it; and after it the encoder. -/

namespace Sys2Proof

open Machine

/-! ### The header: classification -/

/-- The request classes `classify` answers (R190). -/
inductive RequestClass where
  | readRun
  | readBasic
  | writeReg
  | unknown
deriving DecidableEq, Repr

/-- `classify(unit, fn, start, qty)` (R190). -/
def classify (unit fn : Byte) (start qty : Word) : RequestClass :=
  if unit = Const.unitAddr ∧ fn = Const.fnReadRun ∧ start = Const.baseRun ∧ qty = Const.qtyRun then .readRun
  else if unit = Const.unitAddr ∧ fn = Const.fnReadBasic ∧ start = Const.baseBasic ∧ qty = Const.qtyBasic then .readBasic
  else if unit = Const.unitAddr ∧ fn = Const.fnWrite then .writeReg
  else .unknown

/-- The decode rows of the opcode table (R86, R87, R101). -/
inductive DecodeRow where
  | readRun
  | readBasic
  | writeRegOn
  | writeRegOff
  | writeRegIllegal
  | unknown
deriving DecidableEq, Repr

/-- A signature: a 48-bit pattern and the mask of the bits it fixes (R85), with the table's priority (R101). -/
structure Signature where
  /-- The row selected. -/
  row : DecodeRow
  /-- `match`. -/
  pattern : BitVec 48
  /-- `mask`. -/
  mask : BitVec 48
  /-- Rows are tried in ascending priority. -/
  priority : Nat
deriving DecidableEq, Repr

/-- The wire rows of spec/opcode_table.json in ascending priority (R86, R87, R101). -/
def signatures : List Signature :=
  [⟨.readRun, 0x061210000024, 0xFFFFFFFFFFFF, 1⟩,
   ⟨.readBasic, 0x061610240027, 0xFFFFFFFFFFFF, 1⟩,
   ⟨.writeRegOn, 0x061810370000, 0xFFFFFFFF0000, 1⟩,
   ⟨.writeRegOff, 0x061810380000, 0xFFFFFFFF0000, 1⟩,
   ⟨.writeRegIllegal, 0x061800000000, 0xFFFF00000000, 2⟩,
   ⟨.unknown, 0x000000000000, 0x000000000000, 3⟩]

/-- A header number has a signature when it agrees with the pattern on the masked bits (R85). -/
def Signature.fits (g : Signature) (n : BitVec 48) : Bool := n &&& g.mask == g.pattern

/-- The row the table selects for a header number: the first that fits (R101, R200). -/
def tableRow (n : BitVec 48) : DecodeRow :=
  match signatures.find? (·.fits n) with
  | some g => g.row
  | none => .unknown

/-- The row the classifier and the sub-decoding of WRITE_REG select (R84, R87, R190). -/
def headerRow (h : Header) : DecodeRow :=
  match classify h.unitAddress h.functionCode h.start h.qty with
  | .readRun => .readRun
  | .readBasic => .readBasic
  | .writeReg =>
    if h.start = Const.regOnThr then .writeRegOn
    else if h.start = Const.regOffThr then .writeRegOff
    else .writeRegIllegal
  | .unknown => .unknown

/-! ### The decoder -/

/-- The instruction a checksum-valid header is, on channel `c` (R84, R86, R87). -/
def decodeHeader (c : Nat) (h : Header) : Instr :=
  match headerRow h with
  | .readRun => .readRun c
  | .readBasic => .readBasic c
  | .writeRegOn => .writeRegOn c h.qty
  | .writeRegOff => .writeRegOff c h.qty
  | .writeRegIllegal => .writeRegIllegal c h.start h.qty
  | .unknown => .unknown c h

/-- The instruction an eight-byte frame is, on channel `c`: first the checksum, then the header (R84, R187). -/
def decodeFrame (c : Nat) (f : Frame) : Instr :=
  if frameValid f then decodeHeader c f.header else .crcError c f

/-- The instruction a host operation is (R100, R134). Bits 15:1 of `h_wdata` are ignored for codes 1 and 2, all of it for
codes 0, 6 and 7. -/
def decodeHost (op : BitVec 3) (wdata : Word) : Instr :=
  match op.toNat with
  | 0 => .hstatus
  | 1 => .hsetMode (.ofBit (wdata.getLsbD 0))
  | 2 => .hsetAc (.ofBit (wdata.getLsbD 0))
  | 3 => .hsetBat wdata
  | 4 => .hsetOn wdata
  | 5 => .hsetOff wdata
  | 6 => .hreserved6
  | _ => .hreserved7

/-- Why a decoder rejects. -/
inductive DecodeError where
  /-- A request is exactly eight bytes (R81, R89); `n` bytes were given. -/
  | notEightBytes (n : Nat)
  /-- The bytes are none of the four response shapes (R90 to R93). -/
  | noResponseShape
deriving DecidableEq, Repr

/-- The value a response shows in the slot of register `a` (R51, R52). -/
def shownAt (hdrSize : Nat) (blk : Block) (bytes : List Byte) (a : Word) : Word :=
  read16 bytes (slotOffset hdrSize (slotIndex blk a).toNat)

/-- The bytes are a run response: the one that shows their own four live values (R90). -/
def isRunResponse (cfg : Cfg) (bytes : List Byte) : Bool :=
  let shown (a : Word) := (a, shownAt cfg.hdrSize (runBlock cfg) bytes a)
  bytes == buildResponse cfg.hdrSize (runBlock cfg)
    [shown Const.regPvVolt, shown Const.regPvPower, shown Const.regBatVolt, shown Const.regAcVolt]

/-- The bytes are a basic response: the one that shows their own two live values (R91). -/
def isBasicResponse (cfg : Cfg) (bytes : List Byte) : Bool :=
  let shown (a : Word) := (a, shownAt cfg.hdrSize (basicBlock cfg) bytes a)
  bytes == buildResponse cfg.hdrSize (basicBlock cfg) [shown Const.regOnThr, shown Const.regOffThr]

/-- The bytes are an acknowledgment, and of which header: eight bytes, checksum-valid, a write to a wire-writable register
(R92). -/
def ackHeader (bytes : List Byte) : Option Header :=
  match Frame.take bytes with
  | some (f, []) => if frameValid f && f.header.acknowledged then some f.header else none
  | _ => none

/-- The response shape of an outgoing frame on channel `c`, from its bytes and the configuration (R95). Should both block
templates allow a frame, it is read as a run response: the bytes alone do not tell (R95). -/
def decodeResponse (cfg : Cfg) (c : Nat) (bytes : List Byte) : Except DecodeError Instr :=
  if bytes = exceptionFrame Const.unitAddr Const.fnWrite then .ok (.respException c)
  else
    match ackHeader bytes with
    | some h => .ok (.respAck c h)
    | none =>
      if isRunResponse cfg bytes then .ok (.respRun c)
      else if isBasicResponse cfg bytes then .ok (.respBasic c)
      else .error .noResponseShape

/-- Where an instruction's encoding stands: a frame on a receive stream, an operation on the host port, or a frame on a
transmit stream (R80, R100, R101). -/
inductive Encoding where
  /-- Bytes received on channel `c`. -/
  | request (c : Nat) (bytes : List Byte)
  /-- `h_op` and `h_wdata`. -/
  | host (op : BitVec 3) (wdata : Word)
  /-- Bytes sent on channel `c`. -/
  | response (c : Nat) (bytes : List Byte)
deriving DecidableEq, Repr

/-- The decoder, total on everything that can stand on a port. -/
def decode (cfg : Cfg) : Encoding → Except DecodeError Instr
  | .request c bytes =>
    match Frame.take bytes with
    | some (f, []) => .ok (decodeFrame c f)
    | _ => .error (.notEightBytes bytes.length)
  | .host op wdata => .ok (decodeHost op wdata)
  | .response c bytes => decodeResponse cfg c bytes

/-! ### The encoder -/

/-- The encoding of a request with header `h` on channel `c`: six header bytes and their checksum (R80, R81). -/
def encodeHeader (c : Nat) (h : Header) : Encoding := .request c (frameOf h).bytes

/-- The encoding of an instruction. The two block responses show the configuration and the store (R90, R91); the others do
not depend on them. -/
def encode (cfg : Cfg) (rs : Store) : Instr → Encoding
  | .readRun c => encodeHeader c .readRun
  | .readBasic c => encodeHeader c .readBasic
  | .writeRegOn c value => encodeHeader c (.write Const.regOnThr value)
  | .writeRegOff c value => encodeHeader c (.write Const.regOffThr value)
  | .writeRegIllegal c addr value => encodeHeader c (.write addr value)
  | .unknown c h => encodeHeader c h
  | .writeReg c addr value => encodeHeader c (.write addr value)
  | .crcError c f => .request c f.bytes
  | .hstatus => .host 0 0
  | .hsetMode m => .host 1 (wdataOfBit m.bit)
  | .hsetAc a => .host 2 (wdataOfBit a.bit)
  | .hsetBat v => .host 3 v
  | .hsetOn v => .host 4 v
  | .hsetOff v => .host 5 v
  | .hreserved6 => .host 6 0
  | .hreserved7 => .host 7 0
  | .respRun c => .response c (runResponse cfg rs)
  | .respBasic c => .response c (basicResponse cfg rs)
  | .respAck c h => .response c (ackFrame h)
  | .respException c => .response c (exceptionFrame Const.unitAddr Const.fnWrite)

/-- The decode row an instruction stands for: `WRITE_REG` is the union of its three sub-rows, and a decoder uses those
(R87, R101); every other instruction stands for itself. -/
def Instr.decodeRow : Instr → Instr
  | .writeReg c addr value =>
    if addr = Const.regOnThr then .writeRegOn c value
    else if addr = Const.regOffThr then .writeRegOff c value
    else .writeRegIllegal c addr value
  | i => i

/-! ### The opcode table's own numbers -/

/-- The frame a table word stands for: a 48-bit header number, whose checksum the table takes as passed (R101), or the
64-bit number of a whole frame (R81). The most significant byte is byte 0. -/
def tableFrame (nbits w : Nat) : Option Frame :=
  if nbits = 48 then some (frameOf (.ofNumber (BitVec.ofNat 48 w)))
  else if nbits = 64 then some (.ofNumber (BitVec.ofNat 64 w))
  else none

/-- The host operation code a table word stands for: a 3-bit `h_op` in one whole byte, `h_wdata` all zeros. -/
def tableHostOp (nbits w : Nat) : Option (BitVec 3) :=
  if nbits = 8 ∧ w < 8 then some (BitVec.ofNat 3 w) else none

/-- The instruction the decoder reads from a table word; a request is taken to come through channel 0. -/
def decodeTableWord (nbits w : Nat) : Option Instr :=
  match tableFrame nbits w with
  | some f =>
    match Frame.take f.bytes with
    | some (g, _) => some (decodeFrame 0 g)
    | none => none
  | none =>
    match tableHostOp nbits w with
    | some op => some (decodeHost op 0)
    | none => none

end Sys2Proof
end

