-- ==== Sys2Proof/Machine/Ops.lean ====
section
/-! DEFINITION. The named operations over the state: the CRC accumulator of a channel (R119), access to a channel, framing
(R171, R173, R176), delivery of a response (R197), dropping a frame (R16, R188, R194), taking the one exception (R223), the
transmit step (R199) and reset (R250). An operation that names a channel the device does not have faults. -/

namespace Sys2Proof.Machine

/-- `CRC.CLEAR` (R119). -/
def Channel.crcClear (ch : Channel) : Channel := { ch with crc := Const.crcInit }

/-- `CRC.UPDATE b` (R119). -/
def Channel.crcUpdate (ch : Channel) (b : Byte) : Channel := { ch with crc := Machine.crcUpdate ch.crc b }

/-- `CRC.READ` (R119). -/
def Channel.crcRead (ch : Channel) : Word := ch.crc

/-- A checksum computation: clear, then one update per byte (R32, R112, R119). -/
def Channel.checksum (ch : Channel) (bytes : List Byte) : Channel := bytes.foldl Channel.crcUpdate ch.crcClear

/-- A channel receives a whole response: the checksum is computed in its accumulator over the final body and appended low
byte first (R54, R115, R197). -/
def Channel.load (ch : Channel) (body : List Byte) : Channel :=
  let ch' := ch.checksum body
  { ch' with txbuf := body ++ [lo8 ch'.crcRead, hi8 ch'.crcRead] }

/-- An operation on one channel, nothing else touched; a fault where the channel does not exist. -/
def State.onChannel (s : State) (c : Nat) (f : Channel → Channel) : Host.Outcome State Fault Refusal :=
  match s.chans[c]? with
  | none => .fault (.noSuchChannel c)
  | some ch => .next { s with chans := s.chans.set c (f ch) }

/-- Something leaves the engine (R13, R199): it is added to the history. -/
def State.emit (s : State) (o : Output) : State := { s with outputs := s.outputs ++ [o] }

/-- A write of the Register Store. -/
def State.withStore (s : State) (rs : Store) : State := { s with rs := rs }

/-- Delivery: the response of the given body, with its fresh checksum, becomes the whole of `txbuf[c]` (R115, R197). -/
def State.respond (s : State) (c : Nat) (body : List Byte) : Host.Outcome State Fault Refusal :=
  s.onChannel c fun ch => ch.load body

/-- `drop(kind)`: no response, one diagnostic event (R16, R188, R194). -/
def State.drop (s : State) (c : Nat) (kind : DiagKind) (f : Frame) : Host.Outcome State Fault Refusal :=
  match s.chans[c]? with
  | none => .fault (.noSuchChannel c)
  | some _ => .next (s.emit (.event c kind f))

/-- `raise IllegalDataAddress`: TAKING THE ONE EXCEPTION (R222, R223): the response becomes the exception frame and the event
`ILLEGAL_ADDRESS` is emitted. No state is saved and nothing else changes (R223), so there is no return from it (R224): the
next frame is handled as if it had not happened. -/
def State.raiseIllegalDataAddress (s : State) (c : Nat) (h : Header) : Host.Outcome State Fault Refusal :=
  (s.emit (.event c .illegalAddress (frameOf h))).respond c (exceptionBody h.unitAddress h.functionCode)

/-- `RX(c, b)`: the byte is taken while the buffer has room; otherwise `rx_ready` is low, nothing is transferred and the
transport keeps the byte (R9, R171, R177). -/
def State.receive (s : State) (c : Nat) (b : Byte) : Host.Outcome State Fault Refusal :=
  s.onChannel c fun ch =>
    if ch.rxbuf.length < s.cfg.rxDepth then { ch with rxbuf := ch.rxbuf ++ [b] } else ch

/-- `CLEAR(c)`: both buffers of the channel are emptied, the store is not touched (R176). -/
def State.clearChannel (s : State) (c : Nat) : Host.Outcome State Fault Refusal :=
  s.onChannel c fun ch => { ch with rxbuf := [], txbuf := [] }

/-- `TX(c)`: the first pending byte leaves, marked if it is the last; nothing happens while none is pending (R10, R199). -/
def State.transmit (s : State) (c : Nat) : Host.Outcome State Fault Refusal :=
  match s.chans[c]? with
  | none => .fault (.noSuchChannel c)
  | some ch =>
    match ch.txbuf with
    | [] => .next s
    | b :: rest =>
      .next { s with chans := s.chans.set c { ch with txbuf := rest }
                     outputs := s.outputs ++ [.byte c b rest.isEmpty] }

/-- What a `DISPATCH(c)` turn finds. -/
inductive Fetched where
  /-- The channel does not exist. -/
  | noSuchChannel
  /-- The step is not enabled: fewer than eight bytes are buffered, or a response is still pending (R186, R198). -/
  | notEnabled
  /-- The frame taken, and the state after its removal. -/
  | frame (f : Frame) (s : State)
deriving DecidableEq, Repr

/-- `takeFrame(c)` when `DISPATCH(c)` is enabled: the first eight bytes are removed whatever they are (R173, R186), and the
checksum of the body is computed in the accumulator for the validator (R32, R187). -/
def State.fetch (s : State) (c : Nat) : Fetched :=
  match s.chans[c]? with
  | none => .noSuchChannel
  | some ch =>
    match Frame.take ch.rxbuf, ch.txbuf with
    | some (f, rest), [] => .frame f { s with chans := s.chans.set c { ch.checksum f.body with rxbuf := rest } }
    | _, _ => .notEnabled

/-- `RESET`: the store takes its configured initial values and every channel is empty (R38, R250). The environment's
remaining turns and what has already left the engine are no part of it. -/
def State.resetEngine (s : State) : State :=
  { s with rs := Store.initial s.cfg, chans := List.replicate s.cfg.nChan Channel.empty }

/-! ### The ports as they stand between steps -/

/-- `rx_ready[c]` (R9). -/
def State.rxReady (s : State) (c : Nat) : Bool :=
  match s.chans[c]? with
  | some ch => decide (ch.rxbuf.length < s.cfg.rxDepth)
  | none => false

/-- `tx_valid[c]` (R10). -/
def State.txValid (s : State) (c : Nat) : Bool :=
  match s.chans[c]? with
  | some ch => !ch.txbuf.isEmpty
  | none => false

/-- `tx_data[c]`, while `tx_valid[c]` is high (R10). -/
def State.txData (s : State) (c : Nat) : Option Byte := s.chans[c]?.bind fun ch => ch.txbuf.head?

/-- `tx_last[c]` (R10). -/
def State.txLast (s : State) (c : Nat) : Bool :=
  match s.chans[c]? with
  | some ch => ch.txbuf.length == 1
  | none => false

/-- `DISPATCH(c)` is enabled (R17, R186). -/
def State.dispatchEnabled (s : State) (c : Nat) : Bool :=
  match s.chans[c]? with
  | some ch => decide (8 ≤ ch.rxbuf.length) && ch.txbuf.isEmpty
  | none => false

/-- `h_rdata`: always the current store (R12, R100). -/
def State.hRdata (s : State) : BitVec 50 := s.rs.hRdata

/-- `diag_kind`: the code of an event's kind (R226). -/
def DiagKind.code : DiagKind → BitVec 2
  | .crcError => 0
  | .unknown => 1
  | .illegalAddress => 2

end Sys2Proof.Machine
end

