-- ==== Sys2Proof/Machine/DroppedFrames.lean ====
section
/-! DEFINITION. The frames that get no answer (44_request_dispatcher.md, R188 and R194). -/

namespace Sys2Proof.Machine

/-- `UNKNOWN`: silence and the event `UNKNOWN` with the frame's bytes (R194, R226). The frame was checksum-valid, so it is the
frame of its header. -/
def execUnknown (c : Nat) (h : Header) (s : State) : Host.Outcome State Fault Refusal := s.drop c .unknown (frameOf h)

/-- `CRC_ERROR`: silence and the event `CRC_ERROR` with the frame's bytes (R188, R226). -/
def execCrcError (c : Nat) (f : Frame) (s : State) : Host.Outcome State Fault Refusal := s.drop c .crcError f

end Sys2Proof.Machine
end

