-- ==== Sys2Proof/Machine/HostOps.lean ====
section
/-! DEFINITION. The host operations (41_register_store.md, R134 to R141). -/

namespace Sys2Proof.Machine

/-- `HSTATUS`: the snapshot of the five fields goes to the host, nothing is written (R141). -/
def execHstatus (s : State) : Host.Outcome State Fault Refusal := .next (s.emit (.snapshot s.rs))

/-- `HSET_MODE` (R135). -/
def execHsetMode (m : Mode) (s : State) : Host.Outcome State Fault Refusal := .next (s.withStore (s.rs.setMode m))

/-- `HSET_AC` (R136). -/
def execHsetAc (a : AcState) (s : State) : Host.Outcome State Fault Refusal := .next (s.withStore (s.rs.setAcState a))

/-- `HSET_BAT` (R137). -/
def execHsetBat (v : Word) (s : State) : Host.Outcome State Fault Refusal := .next (s.withStore (s.rs.setBatteryVoltage v))

/-- `HSET_ON` (R138). -/
def execHsetOn (v : Word) (s : State) : Host.Outcome State Fault Refusal := .next (s.withStore (s.rs.setOnThreshold v))

/-- `HSET_OFF` (R139). -/
def execHsetOff (v : Word) (s : State) : Host.Outcome State Fault Refusal := .next (s.withStore (s.rs.setOffThreshold v))

/-- `HRESERVED6`: no state change, no output (R140). -/
def execHreserved6 (s : State) : Host.Outcome State Fault Refusal := .next s

/-- `HRESERVED7`: no state change, no output (R140). -/
def execHreserved7 (s : State) : Host.Outcome State Fault Refusal := .next s

end Sys2Proof.Machine
end

