-- ==== Sys2Proof/Machine/ReadRequests.lean ====
section
/-! DEFINITION. The two read requests (44_request_dispatcher.md, R191 and R192). -/

namespace Sys2Proof.Machine

/-- `READ_RUN`: answered with the run response of the present store (R154, R191). -/
def execReadRun (c : Nat) (s : State) : Host.Outcome State Fault Refusal := s.respond c (runBody s.cfg s.rs)

/-- `READ_BASIC`: answered with the basic response of the present store (R155, R192). -/
def execReadBasic (c : Nat) (s : State) : Host.Outcome State Fault Refusal := s.respond c (basicBody s.cfg s.rs)

end Sys2Proof.Machine
end

