-- ==== Sys2Proof/Machine/Responses.lean ====
section
/-! DEFINITION. The response rows of the opcode table (R90 to R93, R101): the engine's outgoing frames. The meaning of such a
row is its delivery: the frame becomes the whole of `txbuf[c]` (R197). No turn fetches one: a request's own meaning delivers
the response it is answered with, in the same atomic step (R185). -/

namespace Sys2Proof.Machine

/-- `RESP_RUN`: `txbuf[c] <- runResponse()` (R154, R197). -/
def execRespRun (c : Nat) (s : State) : Host.Outcome State Fault Refusal := s.respond c (runBody s.cfg s.rs)

/-- `RESP_BASIC`: `txbuf[c] <- basicResponse()` (R155, R197). -/
def execRespBasic (c : Nat) (s : State) : Host.Outcome State Fault Refusal := s.respond c (basicBody s.cfg s.rs)

/-- `RESP_ACK`: `txbuf[c] <- ackFrame(f)` (R197, R211). -/
def execRespAck (c : Nat) (h : Header) (s : State) : Host.Outcome State Fault Refusal := s.respond c h.bytes

/-- `RESP_EXCEPTION`: `txbuf[c] <- exceptionFrame(f)`, the constant `06 98 02 7B C0` (R93, R197, R209). -/
def execRespException (c : Nat) (s : State) : Host.Outcome State Fault Refusal :=
  s.respond c (exceptionBody Const.unitAddr Const.fnWrite)

end Sys2Proof.Machine
end

