-- ==== Sys2Proof/Machine/WriteRequests.lean ====
section
/-! DEFINITION. The write handler (45_write_handler.md): the three sub-rows of WRITE_REG and the class row. -/

namespace Sys2Proof.Machine

/-- `WRITE_REG.ON`: the clamped value becomes the on threshold and the request is acknowledged, in one step (R206, R207). -/
def execWriteRegOn (c : Nat) (value : Word) (s : State) : Host.Outcome State Fault Refusal :=
  (s.withStore (s.rs.setOnThreshold (clamp16 (wordInt value)))).respond c (Header.write Const.regOnThr value).bytes

/-- `WRITE_REG.OFF`: the clamped value becomes the off threshold and the request is acknowledged, in one step (R206, R210). -/
def execWriteRegOff (c : Nat) (value : Word) (s : State) : Host.Outcome State Fault Refusal :=
  (s.withStore (s.rs.setOffThreshold (clamp16 (wordInt value)))).respond c (Header.write Const.regOffThr value).bytes

/-- `WRITE_REG.ILLEGAL`: the exception `IllegalDataAddress` is taken; the value is ignored (R208). -/
def execWriteRegIllegal (c : Nat) (addr value : Word) (s : State) : Host.Outcome State Fault Refusal :=
  s.raiseIllegalDataAddress c (Header.write addr value)

/-- `WRITE_REG`, the class row: the whole write handler, by target address (R193, R206). -/
def execWriteReg (c : Nat) (addr value : Word) (s : State) : Host.Outcome State Fault Refusal :=
  let h := Header.write addr value
  if h.start = Const.regOnThr then
    (s.withStore (s.rs.setOnThreshold (clamp16 (wordInt h.qty)))).respond c h.bytes
  else if h.start = Const.regOffThr then
    (s.withStore (s.rs.setOffThreshold (clamp16 (wordInt h.qty)))).respond c h.bytes
  else s.raiseIllegalDataAddress c h

end Sys2Proof.Machine
end

