-- ==== Sys2Proof/Machine/Dispatch.lean ====
section
/-! DEFINITION. One arm per constructor of `Instr`: its meaning. -/

namespace Sys2Proof.Machine

def exec (i : Instr) (s : State) : Host.Outcome State Fault Refusal :=
  match i with
  | .readRun c => Sys2Proof.Machine.execReadRun c s
  | .readBasic c => Sys2Proof.Machine.execReadBasic c s
  | .writeRegOn c value => Sys2Proof.Machine.execWriteRegOn c value s
  | .writeRegOff c value => Sys2Proof.Machine.execWriteRegOff c value s
  | .writeRegIllegal c addr value => Sys2Proof.Machine.execWriteRegIllegal c addr value s
  | .unknown c h => Sys2Proof.Machine.execUnknown c h s
  | .writeReg c addr value => Sys2Proof.Machine.execWriteReg c addr value s
  | .crcError c f => Sys2Proof.Machine.execCrcError c f s
  | .hstatus => Sys2Proof.Machine.execHstatus s
  | .hsetMode m => Sys2Proof.Machine.execHsetMode m s
  | .hsetAc a => Sys2Proof.Machine.execHsetAc a s
  | .hsetBat v => Sys2Proof.Machine.execHsetBat v s
  | .hsetOn v => Sys2Proof.Machine.execHsetOn v s
  | .hsetOff v => Sys2Proof.Machine.execHsetOff v s
  | .hreserved6 => Sys2Proof.Machine.execHreserved6 s
  | .hreserved7 => Sys2Proof.Machine.execHreserved7 s
  | .respRun c => Sys2Proof.Machine.execRespRun c s
  | .respBasic c => Sys2Proof.Machine.execRespBasic c s
  | .respAck c h => Sys2Proof.Machine.execRespAck c h s
  | .respException c => Sys2Proof.Machine.execRespException c s

end Sys2Proof.Machine
end

