-- ==== Sys2Proof/Machine/Step.lean ====
section
/-! DEFINITION. One step of the machine: the agent at the head of the schedule takes its turn (R17), atomically. -/

namespace Sys2Proof.Machine

/-- `DISPATCH(c)`: the frame is taken, decoded and run in one step (R185, R186); a turn in which it is not enabled changes
nothing. -/
def dispatchTurn (c : Nat) (s : State) : Host.Outcome State Fault Refusal :=
  match s.fetch c with
  | .noSuchChannel => .fault (.noSuchChannel c)
  | .notEnabled => .next s
  | .frame f s' => exec (decodeFrame c f) s'

/-- An agent's turn (R17). -/
def takeTurn (t : Turn) (s : State) : Host.Outcome State Fault Refusal :=
  match t with
  | .rx c b => s.receive c b
  | .dispatch c => dispatchTurn c s
  | .tx c => s.transmit c
  | .clear c => s.clearChannel c
  | .host op wdata => exec (decodeHost op wdata) s
  | .reset => .next s.resetEngine

/-- One step: the next turn of the schedule is taken. With no turn left no agent moves, and the state stays as it is
(R234: all state survives any idle period). -/
def step (s : State) : Host.Outcome State Fault Refusal :=
  match s.schedule with
  | [] => .next s
  | t :: rest => takeTurn t { s with schedule := rest }

/-- The state in which the very next step runs the instruction of a table word: for a request, its eight bytes are all that
channel 0 has received, its transmit buffer is empty and the next turn is its dispatch; for a host operation, the next turn
is that operation. -/
def State.withFetchWord (s : State) (nbits w : Nat) : State :=
  match tableFrame nbits w with
  | some f =>
    { s with
      chans := { s.chans.headD Channel.empty with rxbuf := f.bytes, txbuf := [] } :: s.chans.tail
      schedule := .dispatch 0 :: s.schedule }
  | none =>
    match tableHostOp nbits w with
    | some op => { s with schedule := .host op 0 :: s.schedule }
    | none => s

end Sys2Proof.Machine
end

