-- ==== Sys2Proof/Safety.lean ====
section
/-! DEFINITION. What claims about runs are stated in: the invariant of the buffers, schedules that name only channels the
device has, the byte stream a channel sends, and runs of several turns. -/

namespace Sys2Proof.Machine

/-- `MAXRESP`: the longest response (R31). -/
def maxResponse (cfg : Cfg) : Nat := max (max cfg.tplRun.length cfg.tplBasic.length) 6 + 2

/-- A channel's buffers keep their bounds (R30, R31). -/
def Channel.bounded (cfg : Cfg) (ch : Channel) : Bool :=
  decide (ch.rxbuf.length ≤ cfg.rxDepth) && decide (ch.txbuf.length ≤ maxResponse cfg)

/-- The invariant: as many channels as the configuration says, each within its bounds (R20, R30, R31). -/
def State.inv (s : State) : Bool :=
  s.chans.length == s.cfg.nChan && s.chans.all fun ch => ch.bounded s.cfg

/-- The channel a turn is about; none for the host and reset. -/
def Turn.channel : Turn → Option Nat
  | .rx c _ => some c
  | .dispatch c => some c
  | .tx c => some c
  | .clear c => some c
  | .host _ _ => none
  | .reset => none

/-- Every turn still to come names a channel the device has. -/
def State.portsExist (s : State) : Bool :=
  s.schedule.all fun t =>
    match t.channel with
    | some c => decide (c < s.cfg.nChan)
    | none => true

/-- The bytes that have left channel `c`, oldest first (the transmit stream, R50). -/
def sentBytes (c : Nat) (outs : List Output) : List Byte :=
  outs.filterMap fun o =>
    match o with
    | .byte d b _ => if d = c then some b else none
    | .event _ _ _ => none
    | .snapshot _ => none

/-- The transmit outputs of a whole response on channel `c`: its bytes in index order, the last one marked (R10). -/
def byteOutputs (c : Nat) : List Byte → List Output
  | [] => []
  | [b] => [.byte c b true]
  | b :: b' :: rest => .byte c b false :: byteOutputs c (b' :: rest)

/-- The diagnostic events of channel `c`, oldest first (R226). -/
def sentEvents (c : Nat) (outs : List Output) : List (DiagKind × Frame) :=
  outs.filterMap fun o =>
    match o with
    | .byte _ _ _ => none
    | .event d kind f => if d = c then some (kind, f) else none
    | .snapshot _ => none

/-- From `s` to `t`, channel `c`, which was `ch`, has been given the response of the given body: the body and its checksum,
low byte first, are the whole of its transmit buffer and the checksum is in its accumulator. No other channel, no configuration
and no turn still to come has changed. What became of the store and of the outputs is left to the statement that uses this. -/
def respondedWith (s t : State) (c : Nat) (ch : Channel) (body : List Byte) : Prop :=
  t.chans[c]? =
    some { ch with txbuf := body ++ [lo8 (crc16 body), hi8 (crc16 body)], crc := crc16 body } ∧
  t.chans.length = s.chans.length ∧ (∀ d, d ≠ c → t.chans[d]? = s.chans[d]?) ∧
  t.device = s.device ∧ t.schedule = s.schedule

/-- The next step of `s` is `DISPATCH(c)` and it is enabled: channel `c`, which is `ch`, holds the frame `f` and after it
`tail`, and has no response pending (R186). `rest` are the turns after it. -/
def dispatches (s : State) (c : Nat) (ch : Channel) (f : Frame) (tail : List Byte) (rest : List Turn) : Prop :=
  s.schedule = .dispatch c :: rest ∧ s.chans[c]? = some ch ∧ ch.rxbuf = f.bytes ++ tail ∧ ch.txbuf = []

/-! ### The reference: what a byte stream does to the store and which bytes it is answered with (no channels, no turns) -/

/-- The effect of one frame: the store after it and the response, empty for silence (R186 to R196 in one function). -/
def frameEffect (cfg : Cfg) (rs : Store) (f : Frame) : Store × List Byte :=
  if f.crcRx ≠ crc16 f.body then (rs, [])
  else
    match headerRow f.header with
    | .readRun => (rs, runResponse cfg rs)
    | .readBasic => (rs, basicResponse cfg rs)
    | .writeRegOn => ({ rs with onThreshold := f.header.qty }, f.bytes)
    | .writeRegOff => ({ rs with offThreshold := f.header.qty }, f.bytes)
    | .writeRegIllegal => (rs, [0x06, 0x98, 0x02, 0x7B, 0xC0])
    | .unknown => (rs, [])

/-- The diagnostic event of one frame, if any (R226). -/
def frameEvent (f : Frame) : Option (DiagKind × Frame) :=
  if f.crcRx ≠ crc16 f.body then some (.crcError, f)
  else
    match headerRow f.header with
    | .readRun => none
    | .readBasic => none
    | .writeRegOn => none
    | .writeRegOff => none
    | .writeRegIllegal => some (.illegalAddress, f)
    | .unknown => some (.unknown, f)

/-- The effect of the frames of a stream in arrival order: the store after them and the bytes sent (R65, R170). -/
def streamEffect (cfg : Cfg) (rs : Store) : List Frame → Store × List Byte
  | [] => (rs, [])
  | f :: fs =>
    let one := frameEffect cfg rs f
    let more := streamEffect cfg one.1 fs
    (more.1, one.2 ++ more.2)

/-- The turns that process `n` frames of channel `c`: for each a dispatch and then `m` chances to send a byte. -/
def frameTurns (c m : Nat) : Nat → List Turn
  | 0 => []
  | n + 1 => .dispatch c :: (List.replicate m (.tx c) ++ frameTurns c m n)

end Sys2Proof.Machine
end

