-- ==== Sys2Proof/Certificates/Slice0/Obligations.lean ====
section
/-! DEFINITION. The statements for the provers. Each docstring names the rules of the spec it formalises. -/

open Sys2Proof Sys2Proof.Machine

/-! ### Decoding and encoding -/

/-- R86, R87, R96, R100, R209: words written out byte by byte from the spec decode to the instructions they stand for.
The model's own: the checksum's byte step is the one of notes/assumptions/1.md. -/
def Obligations.WrittenOutWordsDecode : Prop :=
  ∀ (cfg : Cfg) (c : Nat),
    decode cfg (.request c [0x06, 0x12, 0x10, 0x00, 0x00, 0x24, 0xBC, 0xA5]) = .ok (.readRun c) ∧
    decode cfg (.request c [0x06, 0x16, 0x10, 0x24, 0x00, 0x27, 0x4D, 0x6F]) = .ok (.readBasic c) ∧
    decode cfg (.request c [0x06, 0x18, 0x10, 0x37, 0x01, 0x06, 0x14, 0xE3]) = .ok (.writeRegOn c 0x0106) ∧
    decode cfg (.request c [0x06, 0x18, 0x10, 0x38, 0x01, 0x2C, 0xA5, 0x3F]) = .ok (.writeRegOff c 0x012C) ∧
    decode cfg (.request c [0x06, 0x18, 0x10, 0x99, 0x12, 0x34, 0xF9, 0xE7]) = .ok (.writeRegIllegal c 0x1099 0x1234) ∧
    decode cfg (.request c [0x06, 0x12, 0x10, 0x00, 0x00, 0x23, 0xFD, 0x67]) =
      .ok (.unknown c ⟨0x06, 0x12, 0x10, 0x00, 0x00, 0x23⟩) ∧
    decode cfg (.request c [0x06, 0x18, 0x10, 0x99, 0x00, 0x00, 0xF4, 0x91]) =
      .ok (.crcError c ⟨⟨0x06, 0x18, 0x10, 0x99, 0x00, 0x00⟩, 0xF4, 0x91⟩) ∧
    decode cfg (.host 1 0xFFFE) = .ok (.hsetMode .day) ∧
    decode cfg (.host 2 0x0001) = .ok (.hsetAc .mainsLost) ∧
    decode cfg (.host 5 0x012C) = .ok (.hsetOff 0x012C) ∧
    decode cfg (.response c [0x06, 0x98, 0x02, 0x7B, 0xC0]) = .ok (.respException c)

/-- R81, R86, R87, R100: every well-formed request and host operation is what its encoding decodes to, with every operand at
every value; the class row WRITE_REG decodes to the sub-row of its address (R87, R101). -/
def Obligations.DecodingAnEncodedRequestGivesItBack : Prop :=
  ∀ (cfg : Cfg) (rs : Store) (i : Instr), i.wellFormed cfg = true → i.isResponse = false →
    decode cfg (encode cfg rs i) = .ok i.decodeRow ∧ ((∀ c a v, i ≠ .writeReg c a v) → i.decodeRow = i)

/-- R90 to R93, R95: every well-formed response is what its frame decodes to, under every well-formed configuration and every
store. A basic response is told from a run response only where the two templates differ in length (R95: a receiver knows the
length from configuration).
The model's own: where one frame fits both templates, it is read as a run response, so the RESP_RUN clause needs no premise on
the templates (notes/assumptions/9.md, DESIGN CHOICE; R95 leaves it open). -/
def Obligations.DecodingASentResponseGivesItBack : Prop :=
  ∀ (d : Device) (rs : Store) (i : Instr), i.wellFormed d.cfg = true → i.isResponse = true →
    ((∃ c, i = .respBasic c) → d.cfg.tplRun.length ≠ d.cfg.tplBasic.length) →
    decode d.cfg (encode d.cfg rs i) = .ok i

/-- R81, R82: no bit of a request is dropped: encoding what any eight bytes decode to gives the same eight bytes. Of a host
operation the code comes back, and an `h_wdata` that decodes to the same operation (R100: some of its bits are ignored). -/
def Obligations.EncodingADecodedFrameGivesItsBytes : Prop :=
  (∀ (cfg : Cfg) (rs : Store) (c : Nat) (f : Frame), encode cfg rs (decodeFrame c f) = .request c f.bytes) ∧
  (∀ (cfg : Cfg) (rs : Store) (op : BitVec 3) (wdata : Word), ∃ wdata',
    encode cfg rs (decodeHost op wdata) = .host op wdata' ∧ decodeHost op wdata' = decodeHost op wdata)

/-- R200: the classifier with the sub-decoding of WRITE_REG and a lookup in the opcode table agree on all 2^48 headers. -/
def Obligations.TableLookupAgreesWithClassifier : Prop :=
  ∀ h : Header, tableRow h.number = headerRow h

/-- R196: of the faults of a frame the first is the one reported: checksum, then signature, then write target. The frame is
consumed in each case and nothing else of the store or of the other channels changes.
The model's own: the accumulator's value after it is notes/assumptions/2.md; the schedule is notes/assumptions/3.md; the
record of outputs is notes/assumptions/4.md. -/
def Obligations.FirstFaultOfAFrameIsTheOneReported : Prop :=
  ∀ (s : State) (c : Nat) (ch : Channel) (f : Frame) (tail : List Byte) (rest : List Turn),
    dispatches s c ch f tail rest →
    (be16 f.crcHi f.crcLo ≠ crc16 f.header.bytes →
      step s = .next { s with
        schedule := rest
        chans := s.chans.set c { ch with rxbuf := tail, crc := crc16 f.header.bytes }
        outputs := s.outputs ++ [.event c .crcError f] }) ∧
    (be16 f.crcHi f.crcLo = crc16 f.header.bytes →
      f.header ≠ ⟨0x06, 0x12, 0x10, 0x00, 0x00, 0x24⟩ → f.header ≠ ⟨0x06, 0x16, 0x10, 0x24, 0x00, 0x27⟩ →
      (f.header.unitAddress ≠ 0x06 ∨ f.header.functionCode ≠ 0x18) →
      step s = .next { s with
        schedule := rest
        chans := s.chans.set c { ch with rxbuf := tail, crc := crc16 f.header.bytes }
        outputs := s.outputs ++ [.event c .unknown f] }) ∧
    (be16 f.crcHi f.crcLo = crc16 f.header.bytes →
      f.header.unitAddress = 0x06 → f.header.functionCode = 0x18 →
      f.header.start ≠ 0x1037 → f.header.start ≠ 0x1038 →
      step s = .next { s with
        schedule := rest
        chans := s.chans.set c { ch with rxbuf := tail, txbuf := [0x06, 0x98, 0x02, 0x7B, 0xC0], crc := 0xC07B }
        outputs := s.outputs ++ [.event c .illegalAddress f] })

/-! ### The checksum -/

/-- R113: the byte step equals eight single-bit steps over the bits of the byte from bit 0 to bit 7.
The model's own: the checksum's byte step is the one of notes/assumptions/1.md. -/
def Obligations.BitSerialChecksumEqualsByteStep : Prop :=
  ∀ (crc : Word) (b : Byte),
    crcUpdate crc b =
      crcBit (crcBit (crcBit (crcBit (crcBit (crcBit (crcBit (crcBit crc (b.getLsbD 0)) (b.getLsbD 1)) (b.getLsbD 2))
        (b.getLsbD 3)) (b.getLsbD 4)) (b.getLsbD 5)) (b.getLsbD 6)) (b.getLsbD 7) ∧
    crcUpdate crc b = crcUpdateSerial crc b

/-- R116: the validator, which compares the last two bytes with the checksum of the rest, accepts exactly the sequences whose
checksum over all their bytes is 0.
The model's own: the checksum's byte step is the one of notes/assumptions/1.md. -/
def Obligations.ValidSequencesHaveZeroResidue : Prop :=
  ∀ f : List Byte, 2 ≤ f.length → (crcValid f = true ↔ crc16 f = 0x0000)

/-- R118: an appended checksum is the little-endian encoding of the checksum and makes the sequence valid; a request built
from a body and its checksum is not a CRC_ERROR for the dispatcher but is classified by its header. -/
def Obligations.AppendedChecksumIsAccepted : Prop :=
  (∀ body : List Byte,
    (appendChecksum body).take body.length = body ∧
    (appendChecksum body).drop body.length = [lo8 (crc16 body), hi8 (crc16 body)] ∧
    crcValid (appendChecksum body) = true) ∧
  (∀ (c : Nat) (h : Header), decodeFrame c ⟨h, lo8 (crc16 h.bytes), hi8 (crc16 h.bytes)⟩ = decodeHeader c h)

/-- R119: the checksum of a concatenation is the fold over the second part started from the checksum of the first, and the
accumulator operations CLEAR, UPDATE per byte, READ compute it without touching the channel's buffers. -/
def Obligations.AccumulatorComputesTheChecksum : Prop :=
  ∀ (ch : Channel) (a b : List Byte),
    crc16 (a ++ b) = b.foldl Sys2Proof.Machine.crcUpdate (crc16 a) ∧
    ((a ++ b).foldl Channel.crcUpdate ch.crcClear).crcRead = crc16 (a ++ b) ∧
    ((a ++ b).foldl Channel.crcUpdate ch.crcClear).rxbuf = ch.rxbuf ∧
    ((a ++ b).foldl Channel.crcUpdate ch.crcClear).txbuf = ch.txbuf

/-- R120: for a given body exactly one of the 65536 checksum values is valid, so a change confined to the checksum bytes of a
valid frame is always detected. -/
def Obligations.ExactlyOneChecksumIsValid : Prop :=
  ∀ (h : Header) (lo hi : Byte), frameValid ⟨h, lo, hi⟩ = true ↔ lo = lo8 (crc16 h.bytes) ∧ hi = hi8 (crc16 h.bytes)

/-- R120(b), which the spec marks as general knowledge: a change of a single bit anywhere in a valid frame is detected. -/
def Obligations.SingleBitChangesAreDetected : Prop :=
  ∀ (f : Frame) (k : Nat), k < 64 → frameValid f = true →
    frameValid (.ofNumber (f.number ^^^ (1#64 <<< k))) = false

/-- R115: whenever a dispatch leaves bytes to send, they are a whole frame that ends in its own fresh checksum.
The model's own: the schedule is notes/assumptions/3.md. -/
def Obligations.EveryResponseEndsInItsChecksum : Prop :=
  ∀ (s t : State) (c : Nat) (ch ch' : Channel) (rest : List Turn),
    s.schedule = .dispatch c :: rest → s.chans[c]? = some ch → ch.txbuf = [] →
    step s = .next t → t.chans[c]? = some ch' → ch'.txbuf ≠ [] →
    ∃ body, body ≠ [] ∧ ch'.txbuf = body ++ [lo8 (crc16 body), hi8 (crc16 body)]

/-! ### The response synthesizer -/

/-- R152: a patch inside the block changes the two bytes of its slot, high byte first, and no other byte; a patch outside it
changes nothing; the length stays. A slot never reaches into the header or beyond the copy. -/
def Obligations.PatchWritesItsSlotOnly : Prop :=
  ∀ (hdr : Nat) (blk : Block) (resp : List Byte) (a v : Word), resp.length = hdr + 2 * blk.nregs →
    (patch hdr blk resp a v).length = resp.length ∧
    (∀ i : Nat, a.toNat = blk.base.toNat + i → i < blk.nregs →
      (patch hdr blk resp a v)[hdr + 2 * i]? = some (hi8 v) ∧
      (patch hdr blk resp a v)[hdr + 2 * i + 1]? = some (lo8 v) ∧
      ∀ k, k ≠ hdr + 2 * i → k ≠ hdr + 2 * i + 1 → (patch hdr blk resp a v)[k]? = resp[k]?) ∧
    (a.toNat < blk.base.toNat ∨ blk.base.toNat + blk.nregs ≤ a.toNat → patch hdr blk resp a v = resp)

/-- R153: an out-of-range patch, wherever it stands in the list, leaves the whole response as it is without that patch, and
the remaining patches are still applied. -/
def Obligations.OutOfRangePatchIsSkipped : Prop :=
  ∀ (hdr : Nat) (blk : Block) (before after : List (Word × Word)) (a v : Word),
    a.toNat < blk.base.toNat ∨ blk.base.toNat + blk.nregs ≤ a.toNat →
    buildResponse hdr blk (before ++ (a, v) :: after) = buildResponse hdr blk (before ++ after)

/-- R157: with distinct addresses the order of the patches does not matter; of two patches of one address the later value
stands, wherever the two are in the list; the engine's own two lists have distinct addresses. -/
def Obligations.PatchOrderMattersOnlyForDuplicates : Prop :=
  (∀ (hdr : Nat) (blk : Block) (ps qs : List (Word × Word)), ps.Perm qs → (ps.map (·.1)).Nodup →
    buildResponse hdr blk ps = buildResponse hdr blk qs) ∧
  (∀ (hdr : Nat) (blk : Block) (ps qs : List (Word × Word)) (a v : Word), a ∈ qs.map (·.1) →
    buildResponse hdr blk (ps ++ (a, v) :: qs) = buildResponse hdr blk (ps ++ qs)) ∧
  (∀ (cfg : Cfg) (rs : Store), ((runPatches cfg rs).map (·.1)).Nodup ∧ ((basicPatches rs).map (·.1)).Nodup)

/-- R152: in 16-bit hardware the wrapped difference with an unsigned compare selects the same patches as the integer test, for
both blocks and every number of slots below 0xEFDC. -/
def Obligations.WrappedIndexCompareIsTheRangeTest : Prop :=
  ∀ (cfg : Cfg) (blk : Block) (a : Word), blk = runBlock cfg ∨ blk = basicBlock cfg → blk.nregs < 0xEFDC →
    ((a - blk.base).toNat < blk.nregs ↔ 0 ≤ slotIndex blk a ∧ slotIndex blk a < blk.nregs) ∧
    (0 ≤ slotIndex blk a → slotIndex blk a < blk.nregs → ((a - blk.base).toNat : Int) = slotIndex blk a)

/-- R158: the structured form of the unit (header and slot list, a multiplexer per slot, serialised) gives the same bytes as
patching a raw copy of the template. -/
def Obligations.StructuredFormGivesTheSameBytes : Prop :=
  ∀ (hdr : Nat) (blk : Block) (patches : List (Word × Word)), blk.tpl.length = hdr + 2 * blk.nregs →
    structuredResponse hdr blk patches = buildResponse hdr blk patches

/-- R27, R90, R91: the slot of every register address a response presents holds `x[a]`. -/
def Obligations.ResponseSlotsShowTheDeviceRegisters : Prop :=
  ∀ (d : Device) (rs : Store) (a v : Word),
    (runRegister d.cfg rs a = some v →
      read16 (runResponse d.cfg rs) (d.cfg.hdrSize + 2 * (a.toNat - 0x1000)) = v) ∧
    (basicRegister d.cfg rs a = some v →
      read16 (basicResponse d.cfg rs) (d.cfg.hdrSize + 2 * (a.toNat - 0x1024)) = v)

/-! ### What each instruction does -/

/-- R90, R154: READ_RUN, and the response row it is answered with, complete on every channel of every state: the response is the
run template with four slots showing the AC voltage, the battery voltage, the PV voltage and the PV power, and a fresh checksum.
No field of the store, no other channel and no output changes.
The model's own: the accumulator's value after it is notes/assumptions/2.md; that the response row means its delivery is
notes/assumptions/8.md (DESIGN CHOICE). -/
def Obligations.ReadRunAnswersWithTheRunBlock : Prop :=
  ∀ (s : State) (c : Nat) (ch : Channel) (i : Instr), i = .readRun c ∨ i = .respRun c → s.chans[c]? = some ch →
    ∃ t body, exec i s = .next t ∧ respondedWith s t c ch body ∧ t.rs = s.rs ∧ t.outputs = s.outputs ∧
      body.length = s.cfg.hdrSize + 2 * s.cfg.nRegsRun ∧
      read16 body (s.cfg.hdrSize + 2) = (if s.rs.acState = .mainsOk then s.cfg.acVoltOk else s.cfg.acVoltLost) ∧
      read16 body (s.cfg.hdrSize + 12) = s.rs.batteryVoltage ∧
      read16 body (s.cfg.hdrSize + 64) = (if s.rs.mode = .day then s.cfg.pvVoltDay else s.cfg.pvVoltNight) ∧
      read16 body (s.cfg.hdrSize + 70) = (if s.rs.mode = .day then s.cfg.pvPowerDay else s.cfg.pvPowerNight) ∧
      ∀ k, (∀ o ∈ [2, 12, 64, 70], k ≠ s.cfg.hdrSize + o ∧ k ≠ s.cfg.hdrSize + o + 1) → body[k]? = s.cfg.tplRun[k]?

/-- R91, R155: READ_BASIC, and the response row it is answered with, complete on every channel of every state: the response is the
basic template with the two threshold slots showing the store, and a fresh checksum. No field of the store, no other channel and no
output changes.
The model's own: the accumulator's value after it is notes/assumptions/2.md; that the response row means its delivery is
notes/assumptions/8.md (DESIGN CHOICE). -/
def Obligations.ReadBasicAnswersWithTheBasicBlock : Prop :=
  ∀ (s : State) (c : Nat) (ch : Channel) (i : Instr), i = .readBasic c ∨ i = .respBasic c → s.chans[c]? = some ch →
    ∃ t body, exec i s = .next t ∧ respondedWith s t c ch body ∧ t.rs = s.rs ∧ t.outputs = s.outputs ∧
      body.length = s.cfg.hdrSize + 2 * s.cfg.nRegsBasic ∧
      read16 body (s.cfg.hdrSize + 38) = s.rs.onThreshold ∧
      read16 body (s.cfg.hdrSize + 40) = s.rs.offThreshold ∧
      ∀ k, (∀ o ∈ [38, 40], k ≠ s.cfg.hdrSize + o ∧ k ≠ s.cfg.hdrSize + o + 1) → body[k]? = s.cfg.tplBasic[k]?

/-- R207, R211: WRITE_REG.ON, and the class row WRITE_REG at 0x1037, complete with every value: the value is the on threshold,
the other four fields are as before, and the answer is the echo of the request's six bytes with a fresh checksum.
The model's own: the accumulator's value after it is notes/assumptions/2.md; that the class row means the write handler is
notes/assumptions/8.md. -/
def Obligations.WriteOnThresholdStoresAndEchoes : Prop :=
  ∀ (s : State) (c : Nat) (ch : Channel) (v : Word) (i : Instr), i = .writeRegOn c v ∨ i = .writeReg c 0x1037 v →
    s.chans[c]? = some ch →
    ∃ t, exec i s = .next t ∧ respondedWith s t c ch [0x06, 0x18, 0x10, 0x37, hi8 v, lo8 v] ∧
      t.rs = { s.rs with onThreshold := v } ∧ t.outputs = s.outputs

/-- R210, R211: WRITE_REG.OFF, and the class row WRITE_REG at 0x1038, complete with every value: the value is the off
threshold, the other four fields are as before, and the answer is the echo of the request's six bytes with a fresh checksum.
The model's own: the accumulator's value after it is notes/assumptions/2.md; that the class row means the write handler is
notes/assumptions/8.md. -/
def Obligations.WriteOffThresholdStoresAndEchoes : Prop :=
  ∀ (s : State) (c : Nat) (ch : Channel) (v : Word) (i : Instr), i = .writeRegOff c v ∨ i = .writeReg c 0x1038 v →
    s.chans[c]? = some ch →
    ∃ t, exec i s = .next t ∧ respondedWith s t c ch [0x06, 0x18, 0x10, 0x38, hi8 v, lo8 v] ∧
      t.rs = { s.rs with offThreshold := v } ∧ t.outputs = s.outputs

/-- R208, R209, R223: WRITE_REG.ILLEGAL, and the class row WRITE_REG at any address but the two writable ones, take the
exception: the answer is the constant `06 98 02 7B C0` whatever the address and the value, the event carries the request's
eight bytes, and no field of the store changes.
The model's own: the accumulator's value after it is notes/assumptions/2.md; the record of outputs is
notes/assumptions/4.md; that the class row means the write handler is notes/assumptions/8.md. -/
def Obligations.IllegalWriteTakesTheException : Prop :=
  ∀ (s : State) (c : Nat) (ch : Channel) (a v : Word) (i : Instr),
    i = .writeRegIllegal c a v ∨ i = .writeReg c a v → a ≠ 0x1037 → a ≠ 0x1038 → s.chans[c]? = some ch →
    ∃ t f, exec i s = .next t ∧ respondedWith s t c ch [0x06, 0x98, 0x02] ∧
      (∀ ch', t.chans[c]? = some ch' → ch'.txbuf = [0x06, 0x98, 0x02, 0x7B, 0xC0]) ∧
      t.rs = s.rs ∧ t.outputs = s.outputs ++ [.event c .illegalAddress f] ∧
      f.header = ⟨0x06, 0x18, hi8 a, lo8 a, hi8 v, lo8 v⟩ ∧ frameValid f = true

/-- R188, R194: CRC_ERROR and UNKNOWN complete in silence: one diagnostic event with the frame's bytes, and nothing else of the
machine changes. The event of UNKNOWN carries the checksum-valid frame of the header.
The model's own: the record of outputs is notes/assumptions/4.md. -/
def Obligations.DroppedFramesAreAnsweredBySilence : Prop :=
  ∀ (s : State) (c : Nat) (ch : Channel), s.chans[c]? = some ch →
    (∀ f : Frame, exec (.crcError c f) s = .next { s with outputs := s.outputs ++ [.event c .crcError f] }) ∧
    (∀ h : Header, ∃ f, f.header = h ∧ frameValid f = true ∧
      exec (.unknown c h) s = .next { s with outputs := s.outputs ++ [.event c .unknown f] })

/-- R209, R211: the response rows RESP_ACK and RESP_EXCEPTION complete: the echo of the six header bytes with a fresh checksum,
and the constant exception frame. The store and the outputs are as before.
The model's own: the accumulator's value after it is notes/assumptions/2.md; that a response row means its delivery is
notes/assumptions/8.md. -/
def Obligations.AckAndExceptionFramesGoOut : Prop :=
  ∀ (s : State) (c : Nat) (ch : Channel), s.chans[c]? = some ch →
    (∀ h : Header, ∃ t, exec (.respAck c h) s = .next t ∧
      respondedWith s t c ch [h.unitAddress, h.functionCode, h.startAddrHi, h.startAddrLo, h.quantityHi, h.quantityLo] ∧
      t.rs = s.rs ∧ t.outputs = s.outputs) ∧
    (∃ t, exec (.respException c) s = .next t ∧ respondedWith s t c ch [0x06, 0x98, 0x02] ∧
      t.chans[c]? = some { ch with txbuf := [0x06, 0x98, 0x02, 0x7B, 0xC0], crc := 0xC07B } ∧
      t.rs = s.rs ∧ t.outputs = s.outputs)

/-- R211: the acknowledgment of a checksum-valid write request equals the request byte for byte.
The model's own: the schedule is notes/assumptions/3.md. -/
def Obligations.AcknowledgmentEqualsTheRequest : Prop :=
  ∀ (s : State) (c : Nat) (ch : Channel) (f : Frame) (tail : List Byte) (rest : List Turn),
    dispatches s c ch f tail rest → frameValid f = true →
    f.header.unitAddress = 0x06 → f.header.functionCode = 0x18 → f.header.start = 0x1037 ∨ f.header.start = 0x1038 →
    ∃ t ch', step s = .next t ∧ t.chans[c]? = some ch' ∧ ch'.txbuf = f.bytes ∧ ch'.rxbuf = tail

/-- R133, R135 to R139: each host setter completes in every state with every operand and writes its one field only. -/
def Obligations.HostSettersWriteOneField : Prop :=
  ∀ (s : State) (m : Mode) (a : AcState) (v : Word),
    exec (.hsetMode m) s = .next { s with rs := { s.rs with mode := m } } ∧
    exec (.hsetAc a) s = .next { s with rs := { s.rs with acState := a } } ∧
    exec (.hsetBat v) s = .next { s with rs := { s.rs with batteryVoltage := v } } ∧
    exec (.hsetOn v) s = .next { s with rs := { s.rs with onThreshold := v } } ∧
    exec (.hsetOff v) s = .next { s with rs := { s.rs with offThreshold := v } }

/-- R141: HSTATUS returns the five fields and writes nothing. That the snapshot is recorded among the outputs is the model's
choice (notes/assumptions/4.md).
The model's own: the record of outputs is notes/assumptions/4.md. -/
def Obligations.StatusReturnsTheSnapshot : Prop :=
  ∀ s : State,
    exec .hstatus s = .next { s with
      outputs := s.outputs ++
        [.snapshot ⟨s.rs.mode, s.rs.acState, s.rs.batteryVoltage, s.rs.onThreshold, s.rs.offThreshold⟩] }

/-- R140: the reserved codes 6 and 7 change no state and produce no output. -/
def Obligations.ReservedCodesChangeNothing : Prop :=
  ∀ (s : State) (wdata : Word),
    exec (decodeHost 6 wdata) s = .next s ∧ exec (decodeHost 7 wdata) s = .next s ∧
    exec .hreserved6 s = .next s ∧ exec .hreserved7 s = .next s

/-- R100, R141: `h_rdata` shows the mode at bit 49, the AC state at bit 48, the battery voltage at bits 47:32, the on
threshold at bits 31:16 and the off threshold at bits 15:0. -/
def Obligations.HostReadDataLayout : Prop :=
  ∀ s : State,
    s.hRdata.getLsbD 49 = decide (s.rs.mode = .night) ∧ s.hRdata.getLsbD 48 = decide (s.rs.acState = .mainsLost) ∧
    s.hRdata.extractLsb' 32 16 = s.rs.batteryVoltage ∧ s.hRdata.extractLsb' 16 16 = s.rs.onThreshold ∧
    s.hRdata.extractLsb' 0 16 = s.rs.offThreshold

/-- A MODEL CHOICE (notes/assumptions/6.md): an instruction that names a channel the device does not have faults. -/
def Obligations.AbsentChannelFaults : Prop :=
  ∀ (i : Instr) (s : State) (c : Nat), i.channel = some c → s.chans[c]? = none → exec i s = .fault (.noSuchChannel c)

/-! ### Steps -/

/-- R84, R186: when channel `c` holds a whole frame and no response is pending, its dispatch turn is `exec` of the instruction
the frame decodes to, on the state in which the turn and the eight bytes are gone and the accumulator holds the validator's
checksum.
The model's own: the accumulator's value after it is notes/assumptions/2.md; the schedule is notes/assumptions/3.md. -/
def Obligations.DispatchStepRunsTheDecodedFrame : Prop :=
  ∀ (s : State) (c : Nat) (ch : Channel) (f : Frame) (tail : List Byte) (rest : List Turn),
    dispatches s c ch f tail rest →
    decode s.cfg (.request c f.bytes) = .ok (decodeFrame c f) ∧
    step s = exec (decodeFrame c f)
      { s with schedule := rest, chans := s.chans.set c { ch with rxbuf := tail, crc := crc16 f.body } }

/-- R134: a host turn is `exec` of the operation its code decodes to, on the state in which the turn is gone.
The model's own: the schedule is notes/assumptions/3.md. -/
def Obligations.HostStepRunsTheDecodedOperation : Prop :=
  ∀ (s : State) (op : BitVec 3) (wdata : Word) (rest : List Turn), s.schedule = .host op wdata :: rest →
    decode s.cfg (.host op wdata) = .ok (decodeHost op wdata) ∧
    step s = exec (decodeHost op wdata) { s with schedule := rest }

/-- R134: what one host turn does, for every code and all data: the one field of its code is written, from bit 0 or from all
of `h_wdata`; codes 0, 6 and 7 write nothing; only code 0 gives an output.
The model's own: the schedule is notes/assumptions/3.md; the record of outputs is notes/assumptions/4.md. -/
def Obligations.HostTurnFollowsTheCodeTable : Prop :=
  ∀ (s : State) (op : BitVec 3) (wdata : Word) (rest : List Turn), s.schedule = .host op wdata :: rest →
    ∃ t, step s = .next t ∧ t.device = s.device ∧ t.chans = s.chans ∧ t.schedule = rest ∧
      t.outputs = s.outputs ++ (if op = 0 then [.snapshot s.rs] else []) ∧
      t.rs.mode = (if op = 1 then (if wdata.getLsbD 0 = false then .day else .night) else s.rs.mode) ∧
      t.rs.acState = (if op = 2 then (if wdata.getLsbD 0 = false then .mainsOk else .mainsLost) else s.rs.acState) ∧
      t.rs.batteryVoltage = (if op = 3 then wdata else s.rs.batteryVoltage) ∧
      t.rs.onThreshold = (if op = 4 then wdata else s.rs.onThreshold) ∧
      t.rs.offThreshold = (if op = 5 then wdata else s.rs.offThreshold)

/-- R186, R198: a dispatch turn changes nothing while fewer than eight bytes are buffered or a response is still pending.
The model's own: that a turn which is not enabled passes is notes/assumptions/3.md. -/
def Obligations.DispatchWaitsUntilEnabled : Prop :=
  ∀ (s : State) (c : Nat) (ch : Channel) (rest : List Turn), s.schedule = .dispatch c :: rest → s.chans[c]? = some ch →
    (ch.rxbuf.length < 8 ∨ ch.txbuf ≠ [] → step s = .next { s with schedule := rest }) ∧
    (8 ≤ ch.rxbuf.length → ch.txbuf = [] → ∃ t ch', step s = .next t ∧ t.chans[c]? = some ch' ∧
      ch'.rxbuf = ch.rxbuf.drop 8)

/-- R9, R171: an offered byte is appended while the receive buffer has room and otherwise not taken; nothing else is read or
written.
The model's own: that a turn which is not enabled passes is notes/assumptions/3.md. -/
def Obligations.ReceiveTurnAppendsOrWaits : Prop :=
  ∀ (s : State) (c : Nat) (b : Byte) (ch : Channel) (rest : List Turn), s.schedule = .rx c b :: rest →
    s.chans[c]? = some ch →
    (ch.rxbuf.length < s.cfg.rxDepth →
      step s = .next { s with schedule := rest, chans := s.chans.set c { ch with rxbuf := ch.rxbuf ++ [b] } }) ∧
    (s.cfg.rxDepth ≤ ch.rxbuf.length → step s = .next { s with schedule := rest })

/-- R10, R199: a transmit turn outputs the first pending byte, marked exactly if it is the last one; with none pending nothing
happens.
The model's own: the schedule is notes/assumptions/3.md; the record of outputs is notes/assumptions/4.md. -/
def Obligations.TransmitTurnSendsTheFirstByte : Prop :=
  ∀ (s : State) (c : Nat) (ch : Channel) (rest : List Turn), s.schedule = .tx c :: rest → s.chans[c]? = some ch →
    (∀ b more, ch.txbuf = b :: more →
      step s = .next { s with
        schedule := rest
        chans := s.chans.set c { ch with txbuf := more }
        outputs := s.outputs ++ [.byte c b (decide (ch.txbuf.length = 1))] }) ∧
    (ch.txbuf = [] → step s = .next { s with schedule := rest })

/-- R176: a clear empties both buffers of its channel, touches neither the store nor another channel and emits nothing. -/
def Obligations.ClearEmptiesItsChannelOnly : Prop :=
  ∀ (s : State) (c : Nat) (ch : Channel) (rest : List Turn), s.schedule = .clear c :: rest → s.chans[c]? = some ch →
    ∃ t ch', step s = .next t ∧ t.chans[c]? = some ch' ∧ ch'.rxbuf = [] ∧ ch'.txbuf = [] ∧
      t.chans.length = s.chans.length ∧ (∀ d, d ≠ c → t.chans[d]? = s.chans[d]?) ∧
      t.rs = s.rs ∧ t.device = s.device ∧ t.outputs = s.outputs

/-- R250: a reset, whenever it comes, gives every field of the store its configured initial value and empties every buffer of
every channel; no event and no byte goes out. -/
def Obligations.ResetTurnRestoresEverything : Prop :=
  ∀ (s : State) (rest : List Turn), s.schedule = .reset :: rest →
    ∃ t, step s = .next t ∧ t.device = s.device ∧ t.outputs = s.outputs ∧
      t.rs.mode = s.cfg.initMode ∧ t.rs.acState = s.cfg.initAcState ∧ t.rs.batteryVoltage = s.cfg.initBatVolt ∧
      t.rs.onThreshold = s.cfg.initOnThr ∧ t.rs.offThreshold = s.cfg.initOffThr ∧
      t.chans.length = s.cfg.nChan ∧ ∀ ch ∈ t.chans, ch.rxbuf = [] ∧ ch.txbuf = []

/-- R38: the machine right after reset: the configured initial values and, on each of the `NCHAN` channels, empty buffers. That no
turn is scheduled and nothing has been sent is the model's choice (notes/assumptions/3.md, 4.md). -/
def Obligations.PowerOnStateIsConfigured : Prop :=
  State.reset.rs.mode = Config.device.cfg.initMode ∧ State.reset.rs.acState = Config.device.cfg.initAcState ∧
  State.reset.rs.batteryVoltage = Config.device.cfg.initBatVolt ∧
  State.reset.rs.onThreshold = Config.device.cfg.initOnThr ∧
  State.reset.rs.offThreshold = Config.device.cfg.initOffThr ∧
  (∀ c, c < Config.device.cfg.nChan → ∃ ch, State.reset.chans[c]? = some ch ∧ ch.rxbuf = [] ∧ ch.txbuf = []) ∧
  State.reset.chans.length = Config.device.cfg.nChan ∧ State.reset.schedule = [] ∧ State.reset.outputs = []

/-- R20, R30, R31: the machine right after reset meets the invariant of the buffers. -/
def Obligations.ResetMeetsTheInvariant : Prop := State.reset.inv = true

/-- R20, R30, R31: every step keeps the invariant: `NCHAN` channels, `rxbuf` within `RXDEPTH`, `txbuf` within `MAXRESP`. -/
def Obligations.EveryStepKeepsTheInvariant : Prop :=
  ∀ s t : State, s.inv = true → step s = .next t → t.inv = true

/-- R7, R36, R252: no step, whatever it runs, writes the configuration or the templates. A step uses up the turn at the head of
the schedule and no other, and takes nothing back of what has left the engine.
The model's own: the schedule is notes/assumptions/3.md; the record of outputs is notes/assumptions/4.md. -/
def Obligations.StepKeepsConfigurationAndUsesUpItsTurn : Prop :=
  ∀ s t : State, step s = .next t →
    t.device = s.device ∧ t.schedule = s.schedule.tail ∧ ∃ more, t.outputs = s.outputs ++ more

/-- R221: nothing is fatal: from every state that meets the invariant, whatever bytes are buffered and whatever turn comes next
on an existing channel, the step gives a next state, and it meets the invariant again.
The model's own: the schedule is notes/assumptions/3.md. -/
def Obligations.NoTurnStopsTheEngine : Prop :=
  ∀ s : State, s.inv = true → s.portsExist = true → ∃ t, step s = .next t ∧ t.inv = true ∧ t.portsExist = true

/-- R21, R22, R23, R37: nothing that comes over the wire, and no transport event, changes the mode, the AC state or the battery
voltage: only a host turn or a reset does.
The model's own: the schedule is notes/assumptions/3.md. -/
def Obligations.WireNeverWritesHostFields : Prop :=
  ∀ (s t : State) (u : Turn) (rest : List Turn), s.schedule = u :: rest → (∀ op w, u ≠ .host op w) → u ≠ .reset →
    step s = .next t →
    t.rs.mode = s.rs.mode ∧ t.rs.acState = s.rs.acState ∧ t.rs.batteryVoltage = s.rs.batteryVoltage

/-- R62, R24, R25: apart from the host and reset, a threshold changes only by the dispatch of a checksum-valid write request of
unit 0x06 to its own register, and then to that request's value.
The model's own: the schedule is notes/assumptions/3.md. -/
def Obligations.OnlyItsOwnWriteRequestChangesAThreshold : Prop :=
  ∀ (s t : State) (u : Turn) (rest : List Turn), s.schedule = u :: rest → (∀ op w, u ≠ .host op w) → u ≠ .reset →
    step s = .next t →
    (t.rs.onThreshold ≠ s.rs.onThreshold → ∃ c ch f tail, u = .dispatch c ∧ dispatches s c ch f tail rest ∧
      frameValid f = true ∧ f.header = ⟨0x06, 0x18, 0x10, 0x37, hi8 t.rs.onThreshold, lo8 t.rs.onThreshold⟩) ∧
    (t.rs.offThreshold ≠ s.rs.offThreshold → ∃ c ch f tail, u = .dispatch c ∧ dispatches s c ch f tail rest ∧
      frameValid f = true ∧ f.header = ⟨0x06, 0x18, 0x10, 0x38, hi8 t.rs.offThreshold, lo8 t.rs.offThreshold⟩)

/-- R64, R232: a turn of one channel, or of the host, leaves every other channel as it was.
The model's own: the schedule is notes/assumptions/3.md. -/
def Obligations.ChannelsAreIsolated : Prop :=
  ∀ (s t : State) (u : Turn) (rest : List Turn) (d : Nat), s.schedule = u :: rest → u ≠ .reset → u.channel ≠ some d →
    step s = .next t → t.chans[d]? = s.chans[d]?

/-- R71: a pending response changes by no later write: every turn but the channel's own transmit and clear, and reset, leaves
the bytes still waiting as they are.
The model's own: the schedule is notes/assumptions/3.md. -/
def Obligations.PendingResponseIsASnapshot : Prop :=
  ∀ (s t : State) (u : Turn) (rest : List Turn) (c : Nat) (ch : Channel), s.schedule = u :: rest →
    s.chans[c]? = some ch → ch.txbuf ≠ [] → u ≠ .tx c → u ≠ .clear c → u ≠ .reset → step s = .next t →
    ∃ ch', t.chans[c]? = some ch' ∧ ch'.txbuf = ch.txbuf

/-- R17: a dispatch that is enabled stays enabled until it is taken, whatever other agents do, unless its channel is cleared or
the engine is reset.
The model's own: the schedule is notes/assumptions/3.md. -/
def Obligations.EnabledDispatchStaysEnabled : Prop :=
  ∀ (s t : State) (u : Turn) (rest : List Turn) (c : Nat), s.schedule = u :: rest → s.dispatchEnabled c = true →
    u ≠ .dispatch c → u ≠ .clear c → u ≠ .reset → step s = .next t → t.dispatchEnabled c = true

/-! ### Runs -/

/-- R9, R172: bytes offered one after another while there is room are appended in order, so how a chunk was cut does not
matter.
The model's own: the schedule is notes/assumptions/3.md. -/
def Obligations.ReceivedBytesKeepTheirOrder : Prop :=
  ∀ (s : State) (c : Nat) (ch : Channel) (chunks : List (List Byte)) (rest : List Turn),
    s.chans[c]? = some ch → ch.rxbuf.length + chunks.flatten.length ≤ s.cfg.rxDepth →
    s.schedule = (chunks.map fun chunk => chunk.map (Turn.rx c)).flatten ++ rest →
    Sys2Proof.core.run chunks.flatten.length s =
      .next { s with schedule := rest, chans := s.chans.set c { ch with rxbuf := ch.rxbuf ++ chunks.flatten } }

/-- R10, R199: given its turns, a pending response leaves whole and in index order, its last byte alone marked.
The model's own: the schedule is notes/assumptions/3.md; the record of outputs is notes/assumptions/4.md. -/
def Obligations.PendingBytesLeaveInOrder : Prop :=
  ∀ (s : State) (c : Nat) (ch : Channel) (rest : List Turn), s.chans[c]? = some ch →
    s.schedule = List.replicate ch.txbuf.length (.tx c) ++ rest →
    Sys2Proof.core.run ch.txbuf.length s =
      .next { s with
        schedule := rest
        chans := s.chans.set c { ch with txbuf := [] }
        outputs := s.outputs ++ byteOutputs c ch.txbuf }

/-- R177: while both are enabled, receiving a byte and dispatching a frame on the same channel give the same state in either
order, so how far reception runs ahead changes nothing.
The model's own: the schedule is notes/assumptions/3.md. -/
def Obligations.ReceiveAndDispatchCommute : Prop :=
  ∀ (s : State) (c : Nat) (ch : Channel) (b : Byte) (rest : List Turn), s.chans[c]? = some ch →
    8 ≤ ch.rxbuf.length → ch.rxbuf.length < s.cfg.rxDepth → ch.txbuf = [] →
    ∃ t, Sys2Proof.core.run 2 { s with schedule := .rx c b :: .dispatch c :: rest } = .next t ∧
      Sys2Proof.core.run 2 { s with schedule := .dispatch c :: .rx c b :: rest } = .next t

/-- R266: a complete, checksum-valid request of a supported class gets its whole response: after its dispatch and as many
transmit turns as the response has bytes, exactly those bytes have left the channel and nothing is pending.
The model's own: the given turns are notes/assumptions/3.md; the record of outputs, of which the bytes sent are read, is
notes/assumptions/4.md. -/
def Obligations.SupportedRequestGetsItsWholeResponse : Prop :=
  ∀ (s : State) (c : Nat) (ch : Channel) (f : Frame) (tail : List Byte) (rest : List Turn),
    dispatches s c ch f tail (List.replicate (frameEffect s.cfg s.rs f).2.length (.tx c) ++ rest) →
    frameValid f = true → f.header.supported = true →
    (frameEffect s.cfg s.rs f).2 ≠ [] ∧
    ∃ t ch', Sys2Proof.core.run ((frameEffect s.cfg s.rs f).2.length + 1) s = .next t ∧
      t.rs = (frameEffect s.cfg s.rs f).1 ∧ t.schedule = rest ∧
      sentBytes c t.outputs = sentBytes c s.outputs ++ (frameEffect s.cfg s.rs f).2 ∧
      t.chans[c]? = some ch' ∧ ch'.rxbuf = tail ∧ ch'.txbuf = []

/-- R57, R65, R170: the channel refines the reference on byte streams: whatever frames are buffered, good or bad, they are cut
every eight bytes and handled in arrival order; the store after them, the bytes sent and the events are those of the reference, and
what is left over waits.
The model's own: the schedule is notes/assumptions/3.md; the record of outputs is notes/assumptions/4.md. -/
def Obligations.ChannelRefinesTheFrameStream : Prop :=
  ∀ (s : State) (c : Nat) (ch : Channel) (fs : List Frame) (tail : List Byte) (m : Nat) (rest : List Turn),
    s.chans[c]? = some ch → ch.rxbuf = fs.flatMap Frame.bytes ++ tail → ch.txbuf = [] → maxResponse s.cfg ≤ m →
    s.schedule = frameTurns c m fs.length ++ rest →
    ∃ t ch', Sys2Proof.core.run (fs.length * (m + 1)) s = .next t ∧ t.schedule = rest ∧
      t.rs = (streamEffect s.cfg s.rs fs).1 ∧
      sentBytes c t.outputs = sentBytes c s.outputs ++ (streamEffect s.cfg s.rs fs).2 ∧
      sentEvents c t.outputs = sentEvents c s.outputs ++ fs.filterMap frameEvent ∧
      t.chans[c]? = some ch' ∧ ch'.rxbuf = tail ∧ ch'.txbuf = []

/-- R67, R213: a write of each threshold, in either order, on any channels, is seen by a later READ_BASIC on any channel: its
response shows both values.
The model's own: that the class row WRITE_REG means the write handler is notes/assumptions/8.md. -/
def Obligations.LaterReadSeesBothWrites : Prop :=
  ∀ (s : State) (c d e : Nat) (v w : Word) (on off first second : Instr),
    c < s.chans.length → d < s.chans.length → e < s.chans.length →
    on = .writeRegOn c v ∨ on = .writeReg c 0x1037 v → off = .writeRegOff d w ∨ off = .writeReg d 0x1038 w →
    (first = on ∧ second = off) ∨ (first = off ∧ second = on) →
    ∃ t₁ t₂ t₃ ch, exec first s = .next t₁ ∧ exec second t₁ = .next t₂ ∧
      exec (.readBasic e) t₂ = .next t₃ ∧ t₃.chans[e]? = some ch ∧
      read16 ch.txbuf (s.cfg.hdrSize + 38) = v ∧ read16 ch.txbuf (s.cfg.hdrSize + 40) = w

/-- R66, R213: two channels write the same register, either of the two writable ones: both orders are behaviours of the machine,
each channel gets its own acknowledgment in both, and that register's threshold, alone of the store, is the value of the write
dispatched last.
The model's own: the schedule is notes/assumptions/3.md. -/
def Obligations.RacingWritesLeaveTheLastDispatched : Prop :=
  ∀ (s : State) (c d : Nat) (chc chd : Channel) (a v w : Word) (rest : List Turn), c ≠ d → a = 0x1037 ∨ a = 0x1038 →
    s.chans[c]? = some chc → s.chans[d]? = some chd →
    chc.rxbuf = (frameOf (.write a v)).bytes → chd.rxbuf = (frameOf (.write a w)).bytes →
    chc.txbuf = [] → chd.txbuf = [] →
    ∃ t u, Sys2Proof.core.run 2 { s with schedule := .dispatch c :: .dispatch d :: rest } = .next t ∧
      Sys2Proof.core.run 2 { s with schedule := .dispatch d :: .dispatch c :: rest } = .next u ∧
      t.rs = (if a = 0x1037 then { s.rs with onThreshold := w } else { s.rs with offThreshold := w }) ∧
      u.rs = (if a = 0x1037 then { s.rs with onThreshold := v } else { s.rs with offThreshold := v }) ∧
      t.chans = u.chans ∧
      (t.chans[c]?.map Channel.txbuf) = some (frameOf (.write a v)).bytes ∧
      (t.chans[d]?.map Channel.txbuf) = some (frameOf (.write a w)).bytes

/-- R60: repeating a read request, an accepted write or a host setter at once leaves the state as the first one left it.
The model's own: that the class row WRITE_REG means the write handler is notes/assumptions/8.md. -/
def Obligations.RepeatingAReadOrWriteChangesNothing : Prop :=
  ∀ (s t : State) (c : Nat) (v : Word) (m : Mode) (a : AcState) (i : Instr),
    i ∈ [.readRun c, .readBasic c, .writeRegOn c v, .writeRegOff c v, .writeReg c 0x1037 v, .writeReg c 0x1038 v,
      .hsetMode m, .hsetAc a, .hsetBat v, .hsetOn v, .hsetOff v] →
    exec i s = .next t → exec i t = .next t

/-- R143: mode isolation. (a) HSET_MODE and HSET_AC leave both thresholds and the battery voltage, and the READ_BASIC response,
as they were. (b) Every threshold write, from the host or over the wire on any channel, leaves the mode, the AC state, the
battery voltage and the READ_RUN response as they were. (c) HSET_BAT changes only the two bytes of the battery slot of the
READ_RUN response, and its checksum.
The model's own: that the class row WRITE_REG means the write handler is notes/assumptions/8.md. -/
def Obligations.ModeIsolation : Prop :=
  ∀ (s : State) (c d : Nat) (m : Mode) (a : AcState) (v : Word), c < s.chans.length → d < s.chans.length →
    (∀ i ∈ [Instr.hsetMode m, .hsetAc a], ∃ s₁ t t₁, exec i s = .next s₁ ∧
      s₁.rs.onThreshold = s.rs.onThreshold ∧ s₁.rs.offThreshold = s.rs.offThreshold ∧
      s₁.rs.batteryVoltage = s.rs.batteryVoltage ∧
      exec (.readBasic c) s = .next t ∧ exec (.readBasic c) s₁ = .next t₁ ∧ t₁.chans[c]? = t.chans[c]?) ∧
    (∀ i ∈ [Instr.hsetOn v, .hsetOff v, .writeRegOn d v, .writeRegOff d v, .writeReg d 0x1037 v, .writeReg d 0x1038 v],
      ∃ s₁ t t₁, exec i s = .next s₁ ∧
        s₁.rs.mode = s.rs.mode ∧ s₁.rs.acState = s.rs.acState ∧ s₁.rs.batteryVoltage = s.rs.batteryVoltage ∧
        exec (.readRun c) s = .next t ∧ exec (.readRun c) s₁ = .next t₁ ∧
        (t₁.chans[c]?.map Channel.txbuf) = t.chans[c]?.map Channel.txbuf) ∧
    (∃ s₁ t t₁ ch ch₁, exec (.hsetBat v) s = .next s₁ ∧ exec (.readRun c) s = .next t ∧
      exec (.readRun c) s₁ = .next t₁ ∧ t.chans[c]? = some ch ∧ t₁.chans[c]? = some ch₁ ∧
      ch₁.txbuf.length = ch.txbuf.length ∧
      ∀ k, k < s.cfg.tplRun.length → k ≠ s.cfg.hdrSize + 12 → k ≠ s.cfg.hdrSize + 13 → ch₁.txbuf[k]? = ch.txbuf[k]?)
end

