-- ==== Sys2Proof/Laws/Checksum.lean ====
section
/-! SUPPORT. The checksum operations: lengths, the fold, and what a computation does to a channel's accumulator. -/

namespace Sys2Proof.Machine

@[simp] theorem length_appendChecksum (s : List Byte) : (appendChecksum s).length = s.length + 2 := by
  simp [appendChecksum]

@[simp] theorem crc16_nil : crc16 [] = Const.crcInit := rfl

theorem crc16_append (s t : List Byte) : crc16 (s ++ t) = t.foldl crcUpdate (crc16 s) := List.foldl_append

theorem crc16_append_singleton (s : List Byte) (b : Byte) : crc16 (s ++ [b]) = crcUpdate (crc16 s) b := by
  simp [crc16]

/-- Updates of the accumulator leave the buffers alone and fold the checksum. -/
theorem Channel.foldl_crcUpdate (bytes : List Byte) (ch : Channel) :
    bytes.foldl Channel.crcUpdate ch = { ch with crc := bytes.foldl Machine.crcUpdate ch.crc } := by
  induction bytes generalizing ch with
  | nil => rfl
  | cons b rest ih => rw [List.foldl_cons, ih]; rfl

/-- A checksum computation writes the accumulator with the checksum and nothing else (R32, R112). -/
theorem Channel.checksum_eq (ch : Channel) (bytes : List Byte) : ch.checksum bytes = { ch with crc := crc16 bytes } := by
  rw [Channel.checksum, Channel.foldl_crcUpdate]; rfl

/-- Loading a response writes the transmit buffer with the body and its checksum, and the accumulator (R32, R115). -/
theorem Channel.load_eq (ch : Channel) (body : List Byte) :
    ch.load body = { ch with crc := crc16 body, txbuf := appendChecksum body } := by
  simp [Channel.load, Channel.checksum_eq, Channel.crcRead, appendChecksum]

@[simp] theorem Channel.checksum_rxbuf (ch : Channel) (bytes : List Byte) : (ch.checksum bytes).rxbuf = ch.rxbuf := by
  simp [Channel.checksum_eq]
@[simp] theorem Channel.checksum_txbuf (ch : Channel) (bytes : List Byte) : (ch.checksum bytes).txbuf = ch.txbuf := by
  simp [Channel.checksum_eq]
@[simp] theorem Channel.checksum_crc (ch : Channel) (bytes : List Byte) : (ch.checksum bytes).crc = crc16 bytes := by
  simp [Channel.checksum_eq]
@[simp] theorem Channel.load_rxbuf (ch : Channel) (body : List Byte) : (ch.load body).rxbuf = ch.rxbuf := by
  simp [Channel.load_eq]
@[simp] theorem Channel.load_txbuf (ch : Channel) (body : List Byte) : (ch.load body).txbuf = appendChecksum body := by
  simp [Channel.load_eq]
@[simp] theorem Channel.load_crc (ch : Channel) (body : List Byte) : (ch.load body).crc = crc16 body := by
  simp [Channel.load_eq]

end Sys2Proof.Machine
end

