-- ==== Sys2Proof/Laws/State.lean ====
section
/-! SUPPORT. One lemma per field per update of the records. -/

namespace Sys2Proof.Machine

@[simp] theorem Store.setMode_mode (rs : Store) (m : Mode) : (rs.setMode m).mode = m := rfl
@[simp] theorem Store.setMode_acState (rs : Store) (m : Mode) : (rs.setMode m).acState = rs.acState := rfl
@[simp] theorem Store.setMode_batteryVoltage (rs : Store) (m : Mode) : (rs.setMode m).batteryVoltage = rs.batteryVoltage := rfl
@[simp] theorem Store.setMode_onThreshold (rs : Store) (m : Mode) : (rs.setMode m).onThreshold = rs.onThreshold := rfl
@[simp] theorem Store.setMode_offThreshold (rs : Store) (m : Mode) : (rs.setMode m).offThreshold = rs.offThreshold := rfl

@[simp] theorem Store.setAcState_mode (rs : Store) (a : AcState) : (rs.setAcState a).mode = rs.mode := rfl
@[simp] theorem Store.setAcState_acState (rs : Store) (a : AcState) : (rs.setAcState a).acState = a := rfl
@[simp] theorem Store.setAcState_batteryVoltage (rs : Store) (a : AcState) :
    (rs.setAcState a).batteryVoltage = rs.batteryVoltage := rfl
@[simp] theorem Store.setAcState_onThreshold (rs : Store) (a : AcState) : (rs.setAcState a).onThreshold = rs.onThreshold := rfl
@[simp] theorem Store.setAcState_offThreshold (rs : Store) (a : AcState) :
    (rs.setAcState a).offThreshold = rs.offThreshold := rfl

@[simp] theorem Store.setBatteryVoltage_mode (rs : Store) (v : Word) : (rs.setBatteryVoltage v).mode = rs.mode := rfl
@[simp] theorem Store.setBatteryVoltage_acState (rs : Store) (v : Word) : (rs.setBatteryVoltage v).acState = rs.acState := rfl
@[simp] theorem Store.setBatteryVoltage_batteryVoltage (rs : Store) (v : Word) :
    (rs.setBatteryVoltage v).batteryVoltage = v := rfl
@[simp] theorem Store.setBatteryVoltage_onThreshold (rs : Store) (v : Word) :
    (rs.setBatteryVoltage v).onThreshold = rs.onThreshold := rfl
@[simp] theorem Store.setBatteryVoltage_offThreshold (rs : Store) (v : Word) :
    (rs.setBatteryVoltage v).offThreshold = rs.offThreshold := rfl

@[simp] theorem Store.setOnThreshold_mode (rs : Store) (v : Word) : (rs.setOnThreshold v).mode = rs.mode := rfl
@[simp] theorem Store.setOnThreshold_acState (rs : Store) (v : Word) : (rs.setOnThreshold v).acState = rs.acState := rfl
@[simp] theorem Store.setOnThreshold_batteryVoltage (rs : Store) (v : Word) :
    (rs.setOnThreshold v).batteryVoltage = rs.batteryVoltage := rfl
@[simp] theorem Store.setOnThreshold_onThreshold (rs : Store) (v : Word) : (rs.setOnThreshold v).onThreshold = v := rfl
@[simp] theorem Store.setOnThreshold_offThreshold (rs : Store) (v : Word) :
    (rs.setOnThreshold v).offThreshold = rs.offThreshold := rfl

@[simp] theorem Store.setOffThreshold_mode (rs : Store) (v : Word) : (rs.setOffThreshold v).mode = rs.mode := rfl
@[simp] theorem Store.setOffThreshold_acState (rs : Store) (v : Word) : (rs.setOffThreshold v).acState = rs.acState := rfl
@[simp] theorem Store.setOffThreshold_batteryVoltage (rs : Store) (v : Word) :
    (rs.setOffThreshold v).batteryVoltage = rs.batteryVoltage := rfl
@[simp] theorem Store.setOffThreshold_onThreshold (rs : Store) (v : Word) :
    (rs.setOffThreshold v).onThreshold = rs.onThreshold := rfl
@[simp] theorem Store.setOffThreshold_offThreshold (rs : Store) (v : Word) : (rs.setOffThreshold v).offThreshold = v := rfl

@[simp] theorem State.withStore_device (s : State) (rs : Store) : (s.withStore rs).device = s.device := rfl
@[simp] theorem State.withStore_rs (s : State) (rs : Store) : (s.withStore rs).rs = rs := rfl
@[simp] theorem State.withStore_chans (s : State) (rs : Store) : (s.withStore rs).chans = s.chans := rfl
@[simp] theorem State.withStore_schedule (s : State) (rs : Store) : (s.withStore rs).schedule = s.schedule := rfl
@[simp] theorem State.withStore_outputs (s : State) (rs : Store) : (s.withStore rs).outputs = s.outputs := rfl

@[simp] theorem State.emit_device (s : State) (o : Output) : (s.emit o).device = s.device := rfl
@[simp] theorem State.emit_rs (s : State) (o : Output) : (s.emit o).rs = s.rs := rfl
@[simp] theorem State.emit_chans (s : State) (o : Output) : (s.emit o).chans = s.chans := rfl
@[simp] theorem State.emit_schedule (s : State) (o : Output) : (s.emit o).schedule = s.schedule := rfl
@[simp] theorem State.emit_outputs (s : State) (o : Output) : (s.emit o).outputs = s.outputs ++ [o] := rfl

@[simp] theorem State.resetEngine_device (s : State) : s.resetEngine.device = s.device := rfl
@[simp] theorem State.resetEngine_rs (s : State) : s.resetEngine.rs = Store.initial s.cfg := rfl
@[simp] theorem State.resetEngine_chans (s : State) :
    s.resetEngine.chans = List.replicate s.cfg.nChan Channel.empty := rfl
@[simp] theorem State.resetEngine_schedule (s : State) : s.resetEngine.schedule = s.schedule := rfl
@[simp] theorem State.resetEngine_outputs (s : State) : s.resetEngine.outputs = s.outputs := rfl

@[simp] theorem State.initial_device (d : Device) : (State.initial d).device = d := rfl
@[simp] theorem State.initial_rs (d : Device) : (State.initial d).rs = Store.initial d.cfg := rfl
@[simp] theorem State.initial_chans (d : Device) : (State.initial d).chans = List.replicate d.cfg.nChan Channel.empty := rfl
@[simp] theorem State.initial_schedule (d : Device) : (State.initial d).schedule = [] := rfl
@[simp] theorem State.initial_outputs (d : Device) : (State.initial d).outputs = [] := rfl

@[simp] theorem Channel.empty_rxbuf : Channel.empty.rxbuf = [] := rfl
@[simp] theorem Channel.empty_txbuf : Channel.empty.txbuf = [] := rfl

end Sys2Proof.Machine
end

