-- ==== Sys2Proof/Laws/Words.lean ====
section
/-! SUPPORT. Small lemmas of bytes, words, headers and frames. -/

namespace Sys2Proof.Machine

theorem toNat_be16 (h l : Byte) : (be16 h l).toNat = h.toNat * 256 + l.toNat := by
  have := h.isLt
  have := l.isLt
  rw [be16, BitVec.toNat_ofNat, Nat.mod_eq_of_lt (by omega)]

theorem toNat_hi8 (v : Word) : (hi8 v).toNat = v.toNat / 256 := by
  have := v.isLt
  rw [hi8, BitVec.extractLsb'_toNat, Nat.shiftRight_eq_div_pow]
  omega

theorem toNat_lo8 (v : Word) : (lo8 v).toNat = v.toNat % 256 := by
  rw [lo8, BitVec.extractLsb'_toNat, Nat.shiftRight_zero]

@[simp] theorem be16_hi8_lo8 (v : Word) : be16 (hi8 v) (lo8 v) = v := by
  apply BitVec.eq_of_toNat_eq
  rw [toNat_be16, toNat_hi8, toNat_lo8]
  omega

@[simp] theorem hi8_be16 (h l : Byte) : hi8 (be16 h l) = h := by
  have := l.isLt
  apply BitVec.eq_of_toNat_eq
  rw [toNat_hi8, toNat_be16]
  omega

@[simp] theorem lo8_be16 (h l : Byte) : lo8 (be16 h l) = l := by
  have := l.isLt
  apply BitVec.eq_of_toNat_eq
  rw [toNat_lo8, toNat_be16]
  omega

/-- Two words are equal when their bytes are. -/
theorem be16_inj {h l h' l' : Byte} (e : be16 h l = be16 h' l') : h = h' ∧ l = l' :=
  ⟨by simpa using congrArg hi8 e, by simpa using congrArg lo8 e⟩

/-- The clamp is the identity on the value of a request field (R212). -/
@[simp] theorem clamp16_wordInt (v : Word) : clamp16 (wordInt v) = v := by
  have h := v.isLt
  unfold clamp16 wordInt
  rw [if_neg (by omega), if_neg (by omega)]
  simp

end Sys2Proof.Machine

namespace Sys2Proof

open Machine

@[simp] theorem Header.start_ofFields (u fn : Byte) (a v : Word) : (Header.ofFields u fn a v).start = a := be16_hi8_lo8 a
@[simp] theorem Header.qty_ofFields (u fn : Byte) (a v : Word) : (Header.ofFields u fn a v).qty = v := be16_hi8_lo8 v
@[simp] theorem Header.unit_ofFields (u fn : Byte) (a v : Word) : (Header.ofFields u fn a v).unitAddress = u := rfl
@[simp] theorem Header.fn_ofFields (u fn : Byte) (a v : Word) : (Header.ofFields u fn a v).functionCode = fn := rfl

/-- A header is its fields laid out (R82). -/
theorem Header.ofFields_eta (h : Header) : Header.ofFields h.unitAddress h.functionCode h.start h.qty = h := by
  simp [Header.ofFields, Header.start, Header.qty]

@[simp] theorem Header.start_write (a v : Word) : (Header.write a v).start = a := be16_hi8_lo8 a
@[simp] theorem Header.qty_write (a v : Word) : (Header.write a v).qty = v := be16_hi8_lo8 v
@[simp] theorem Header.unit_write (a v : Word) : (Header.write a v).unitAddress = Const.unitAddr := rfl
@[simp] theorem Header.fn_write (a v : Word) : (Header.write a v).functionCode = Const.fnWrite := rfl
@[simp] theorem Header.length_bytes (h : Header) : h.bytes.length = 6 := rfl
@[simp] theorem Frame.length_bytes (f : Frame) : f.bytes.length = 8 := rfl
@[simp] theorem Frame.body_mk (h : Header) (lo hi : Byte) : (Frame.mk h lo hi).body = h.bytes := rfl
@[simp] theorem Frame.crcRx_mk (h : Header) (lo hi : Byte) : (Frame.mk h lo hi).crcRx = be16 hi lo := rfl
@[simp] theorem frameOf_header (h : Header) : (frameOf h).header = h := rfl
@[simp] theorem frameOf_bytes (h : Header) : (frameOf h).bytes = appendChecksum h.bytes := rfl

/-- A frame's bytes followed by others are taken as that frame and the others (R173). -/
@[simp] theorem Frame.take_bytes_append (f : Frame) (rest : List Byte) : Frame.take (f.bytes ++ rest) = some (f, rest) := rfl

@[simp] theorem Frame.take_bytes (f : Frame) : Frame.take f.bytes = some (f, []) := rfl

/-- What `Frame.take` takes is the first eight bytes (R173). -/
theorem Frame.take_some {bs : List Byte} {f : Frame} {rest : List Byte} (h : Frame.take bs = some (f, rest)) :
    bs = f.bytes ++ rest := by
  unfold Frame.take at h
  split at h
  · cases h; rfl
  · cases h

/-- A frame can be taken exactly when eight bytes are there (R170, R173). -/
theorem Frame.take_eq_none_iff (bs : List Byte) : Frame.take bs = none ↔ bs.length < 8 := by
  constructor
  · intro h
    unfold Frame.take at h
    split at h
    · cases h
    · rename_i hne
      match bs, hne with
      | [], _ | [_], _ | [_, _], _ | [_, _, _], _ | [_, _, _, _], _ | [_, _, _, _, _], _ | [_, _, _, _, _, _], _
      | [_, _, _, _, _, _, _], _ => all_goals simp
      | b0 :: b1 :: b2 :: b3 :: b4 :: b5 :: b6 :: b7 :: r, hne => exact absurd rfl (hne b0 b1 b2 b3 b4 b5 b6 b7 r)
  · intro h
    cases hf : Frame.take bs with
    | none => rfl
    | some p =>
      have := congrArg List.length (Frame.take_some (f := p.1) (rest := p.2) hf)
      simp at this
      omega

/-- The header number, by the place of each byte (R81). -/
theorem Header.toNat_number (h : Header) :
    h.number.toNat = ((((h.unitAddress.toNat * 256 + h.functionCode.toNat) * 256 + h.startAddrHi.toNat) * 256 +
      h.startAddrLo.toNat) * 256 + h.quantityHi.toNat) * 256 + h.quantityLo.toNat := by
  have happ : ∀ {w : Nat} (x : BitVec w) (y : Byte), (x ++ y).toNat = x.toNat * 256 + y.toNat := by
    intro w x y
    rw [BitVec.toNat_append, Nat.shiftLeft_eq, Nat.mul_comm, ← Nat.two_pow_add_eq_or_of_lt y.isLt]
  unfold Header.number
  rw [happ, happ, happ, happ, happ]

/-- The validator on a frame compares the received checksum with the body's (R187). -/
theorem frameValid_iff (f : Frame) : frameValid f = true ↔ f.crcRx = crc16 f.body := by
  simp [frameValid, crcValid, Frame.bytes, Frame.body, Header.bytes, Frame.crcRx]

/-- The classifier answers WRITE_REG exactly for the unit address and function code of the class (R190). -/
theorem classify_eq_writeReg_iff (u fn : Byte) (a v : Word) :
    classify u fn a v = .writeReg ↔ u = Const.unitAddr ∧ fn = Const.fnWrite := by
  unfold classify
  split
  · rename_i h; simp [h.2.1]
  · split
    · rename_i h; simp [h.2.1]
    · split <;> simp_all

@[simp] theorem Mode.ofBit_bit (m : Mode) : Mode.ofBit m.bit = m := by cases m <;> rfl
@[simp] theorem AcState.ofBit_bit (a : AcState) : AcState.ofBit a.bit = a := by cases a <;> rfl
@[simp] theorem wdataOfBit_bit0 (b : Bool) : (wdataOfBit b).getLsbD 0 = b := by cases b <;> rfl

end Sys2Proof
end

