-- ==== Sys2Proof/Laws/Ops.lean ====
section
/-! SUPPORT. For each shared operation, once, everything it can do. The `_eq` lemma gives its answer on a channel that exists,
the `_next` lemma inverts it. -/

namespace Sys2Proof.Machine

variable {s t : State} {c : Nat} {ch : Channel}

theorem State.onChannel_eq (f : Channel → Channel) (hc : s.chans[c]? = some ch) :
    s.onChannel c f = .next { s with chans := s.chans.set c (f ch) } := by
  simp [State.onChannel, hc]

theorem State.onChannel_next {f : Channel → Channel} (h : s.onChannel c f = .next t) :
    ∃ ch, s.chans[c]? = some ch ∧ t = { s with chans := s.chans.set c (f ch) } := by
  unfold State.onChannel at h
  split at h
  · cases h
  · rename_i ch hc
    cases h
    exact ⟨ch, hc, rfl⟩

theorem State.respond_eq (body : List Byte) (hc : s.chans[c]? = some ch) :
    s.respond c body =
      .next { s with chans := s.chans.set c { ch with crc := crc16 body, txbuf := appendChecksum body } } := by
  rw [State.respond, State.onChannel_eq _ hc, Channel.load_eq]

theorem State.respond_next {body : List Byte} (h : s.respond c body = .next t) :
    ∃ ch, s.chans[c]? = some ch ∧
      t = { s with chans := s.chans.set c { ch with crc := crc16 body, txbuf := appendChecksum body } } := by
  obtain ⟨ch, hc, rfl⟩ := State.onChannel_next h
  exact ⟨ch, hc, by rw [Channel.load_eq]⟩

theorem State.drop_eq (kind : DiagKind) (f : Frame) (hc : s.chans[c]? = some ch) :
    s.drop c kind f = .next (s.emit (.event c kind f)) := by
  simp [State.drop, hc]

theorem State.drop_next {kind : DiagKind} {f : Frame} (h : s.drop c kind f = .next t) :
    (∃ ch, s.chans[c]? = some ch) ∧ t = s.emit (.event c kind f) := by
  unfold State.drop at h
  split at h
  · cases h
  · rename_i ch hc
    cases h
    exact ⟨⟨ch, hc⟩, rfl⟩

/-- Taking the exception: the exception frame in the transmit buffer and one event, nothing else but the accumulator (R223). -/
theorem State.raiseIllegalDataAddress_eq (h : Header) (hc : s.chans[c]? = some ch) :
    s.raiseIllegalDataAddress c h =
      .next { s with
        chans := s.chans.set c
          { ch with
            crc := crc16 (exceptionBody h.unitAddress h.functionCode)
            txbuf := exceptionFrame h.unitAddress h.functionCode }
        outputs := s.outputs ++ [.event c .illegalAddress (frameOf h)] } := by
  rw [State.raiseIllegalDataAddress, State.respond_eq (ch := ch) _ (by simpa using hc)]
  rfl

theorem State.receive_eq (b : Byte) (hc : s.chans[c]? = some ch) :
    s.receive c b =
      .next { s with
        chans := s.chans.set c (if ch.rxbuf.length < s.cfg.rxDepth then { ch with rxbuf := ch.rxbuf ++ [b] } else ch) } :=
  State.onChannel_eq _ hc

theorem State.clearChannel_eq (hc : s.chans[c]? = some ch) :
    s.clearChannel c = .next { s with chans := s.chans.set c { ch with rxbuf := [], txbuf := [] } } :=
  State.onChannel_eq _ hc

theorem State.transmit_idle (hc : s.chans[c]? = some ch) (ht : ch.txbuf = []) : s.transmit c = .next s := by
  simp [State.transmit, hc, ht]

theorem State.transmit_byte {b : Byte} {rest : List Byte} (hc : s.chans[c]? = some ch) (ht : ch.txbuf = b :: rest) :
    s.transmit c =
      .next { s with
        chans := s.chans.set c { ch with txbuf := rest }
        outputs := s.outputs ++ [.byte c b rest.isEmpty] } := by
  simp [State.transmit, hc, ht]

/-- An enabled fetch takes exactly the first eight bytes (R173, R186). -/
theorem State.fetch_frame {f : Frame} {rest : List Byte} (hc : s.chans[c]? = some ch) (hr : ch.rxbuf = f.bytes ++ rest)
    (ht : ch.txbuf = []) :
    s.fetch c = .frame f { s with chans := s.chans.set c { ch with rxbuf := rest, crc := crc16 f.body } } := by
  simp [State.fetch, hc, hr, ht, Channel.checksum_eq]

/-- A fetch is not enabled while fewer than eight bytes are buffered or a response is pending (R186, R198). -/
theorem State.fetch_notEnabled (hc : s.chans[c]? = some ch) (h : ch.rxbuf.length < 8 ∨ ch.txbuf ≠ []) :
    s.fetch c = .notEnabled := by
  unfold State.fetch
  rw [hc]
  dsimp only
  split
  · rename_i f rest hf ht
    have := congrArg List.length (Frame.take_some hf)
    simp at this
    rcases h with h | h
    · omega
    · exact absurd ht h
  · rfl

/-- Everything a fetch can answer. -/
theorem State.fetch_cases (s : State) (c : Nat) :
    (s.chans[c]? = none ∧ s.fetch c = .noSuchChannel) ∨
    (∃ ch, s.chans[c]? = some ch ∧ (ch.rxbuf.length < 8 ∨ ch.txbuf ≠ []) ∧ s.fetch c = .notEnabled) ∨
    (∃ ch f rest, s.chans[c]? = some ch ∧ ch.rxbuf = f.bytes ++ rest ∧ ch.txbuf = [] ∧
      s.fetch c = .frame f { s with chans := s.chans.set c { ch with rxbuf := rest, crc := crc16 f.body } }) := by
  cases hc : s.chans[c]? with
  | none => exact .inl ⟨rfl, by simp [State.fetch, hc]⟩
  | some ch =>
    refine .inr ?_
    by_cases ht : ch.txbuf = []
    · cases hf : Frame.take ch.rxbuf with
      | none =>
        have hl := (Frame.take_eq_none_iff _).mp hf
        exact .inl ⟨ch, rfl, .inl hl, State.fetch_notEnabled hc (.inl hl)⟩
      | some p =>
        obtain ⟨f, rest⟩ := p
        have hr := Frame.take_some hf
        exact .inr ⟨ch, f, rest, rfl, hr, ht, State.fetch_frame hc hr ht⟩
    · exact .inl ⟨ch, rfl, .inr ht, State.fetch_notEnabled hc (.inr ht)⟩

end Sys2Proof.Machine
end

