-- ==== Sys2Proof/Laws/Step.lean ====
section
/-! SUPPORT. What one step is, turn by turn. -/

namespace Sys2Proof.Machine

variable {s : State} {rest : List Turn}

theorem step_idle (h : s.schedule = []) : step s = .next s := by simp [step, h]

theorem step_turn {t : Turn} (h : s.schedule = t :: rest) : step s = takeTurn t { s with schedule := rest } := by
  simp [step, h]

/-- A dispatch turn whose step is not enabled only passes (R186, R198). -/
theorem dispatchTurn_notEnabled {c : Nat} {ch : Channel} (hc : s.chans[c]? = some ch)
    (h : ch.rxbuf.length < 8 ∨ ch.txbuf ≠ []) : dispatchTurn c s = .next s := by
  simp [dispatchTurn, State.fetch_notEnabled hc h]

/-- A dispatch turn whose step is enabled runs the frame's instruction on the state without the frame (R185, R186). -/
theorem dispatchTurn_frame {c : Nat} {ch : Channel} {f : Frame} {tail : List Byte} (hc : s.chans[c]? = some ch)
    (hr : ch.rxbuf = f.bytes ++ tail) (ht : ch.txbuf = []) :
    dispatchTurn c s =
      exec (decodeFrame c f) { s with chans := s.chans.set c { ch with rxbuf := tail, crc := crc16 f.body } } := by
  simp [dispatchTurn, State.fetch_frame hc hr ht]

end Sys2Proof.Machine
end

