-- ==== Sys2Proof/Laws/Synth.lean ====
section
/-! SUPPORT. The patching unit: a patch writes one slot or nothing, and never changes a length. -/

namespace Sys2Proof.Machine

@[simp] theorem length_write16 (resp : List Byte) (o : Nat) (v : Word) : (write16 resp o v).length = resp.length := by
  simp [write16]

/-- The slot number of an address inside a block, as a natural number (R151). -/
theorem slotIndex_of_le {blk : Block} {a : Word} (h : blk.base.toNat ≤ a.toNat) :
    slotIndex blk a = ((a.toNat - blk.base.toNat : Nat) : Int) := by
  unfold slotIndex; omega

/-- A patch of an address inside the block writes that address's slot (R152). -/
theorem patch_of_mem {hdr : Nat} {blk : Block} {a : Word} (resp : List Byte) (v : Word)
    (h1 : blk.base.toNat ≤ a.toNat) (h2 : a.toNat < blk.base.toNat + blk.nregs) :
    patch hdr blk resp a v = write16 resp (slotOffset hdr (a.toNat - blk.base.toNat)) v := by
  unfold patch
  dsimp only
  rw [slotIndex_of_le h1, if_pos (by omega)]
  simp

theorem patch_cases (hdr : Nat) (blk : Block) (resp : List Byte) (a v : Word) :
    patch hdr blk resp a v = resp ∨
    (blk.base.toNat ≤ a.toNat ∧ a.toNat < blk.base.toNat + blk.nregs ∧
      patch hdr blk resp a v = write16 resp (slotOffset hdr (a.toNat - blk.base.toNat)) v) := by
  by_cases h1 : blk.base.toNat ≤ a.toNat
  · by_cases h2 : a.toNat < blk.base.toNat + blk.nregs
    · exact .inr ⟨h1, h2, patch_of_mem resp v h1 h2⟩
    · exact .inl (by unfold patch slotIndex; dsimp only; rw [if_neg (by omega)])
  · exact .inl (by unfold patch slotIndex; dsimp only; rw [if_neg (by omega)])

@[simp] theorem length_patch (hdr : Nat) (blk : Block) (resp : List Byte) (a v : Word) :
    (patch hdr blk resp a v).length = resp.length := by
  rcases patch_cases hdr blk resp a v with h | ⟨_, _, h⟩ <;> simp [h]

theorem length_foldl_patch (hdr : Nat) (blk : Block) (ps : List (Word × Word)) (resp : List Byte) :
    (ps.foldl (fun r p => patch hdr blk r p.1 p.2) resp).length = resp.length := by
  induction ps generalizing resp with
  | nil => rfl
  | cons p ps ih => rw [List.foldl_cons, ih, length_patch]

@[simp] theorem length_patchAll (hdr : Nat) (blk : Block) (ps : List (Word × Word)) :
    (patchAll hdr blk ps).length = blk.tpl.length := length_foldl_patch hdr blk ps blk.tpl

@[simp] theorem length_buildResponse (hdr : Nat) (blk : Block) (ps : List (Word × Word)) :
    (buildResponse hdr blk ps).length = blk.tpl.length + 2 := by
  simp [buildResponse]

@[simp] theorem length_runBody (cfg : Cfg) (rs : Store) : (runBody cfg rs).length = cfg.tplRun.length :=
  length_patchAll ..

@[simp] theorem length_basicBody (cfg : Cfg) (rs : Store) : (basicBody cfg rs).length = cfg.tplBasic.length :=
  length_patchAll ..

end Sys2Proof.Machine

namespace Sys2Proof

/-- The well-formedness facts of R8 that every device carries. -/
theorem Device.facts (d : Device) :
    1 ≤ d.cfg.nChan ∧ 8 ≤ d.cfg.rxDepth ∧ d.cfg.hdrSize = 3 + d.cfg.idLen ∧
    d.cfg.tplRun.length = d.cfg.hdrSize + 2 * d.cfg.nRegsRun ∧
    d.cfg.tplBasic.length = d.cfg.hdrSize + 2 * d.cfg.nRegsBasic ∧
    36 ≤ d.cfg.nRegsRun ∧ 21 ≤ d.cfg.nRegsBasic := by
  have h := d.wellFormed
  unfold Cfg.problem at h
  repeat' (split at h; · cases h)
  refine ⟨?_, ?_, ?_, ?_, ?_, ?_, ?_⟩ <;> omega

end Sys2Proof
end

