-- ==== Sys2Proof/Laws/Effect.lean ====
section
/-! SUPPORT. What a dispatched frame does, once for all frames, in the terms of the reference of Safety.lean. -/

namespace Sys2Proof.Machine

/-- A checksum-valid frame is the frame of its header (R114, R116). -/
theorem frameOf_of_valid {f : Frame} (h : frameValid f = true) : frameOf f.header = f := by
  have h' : be16 f.crcHi f.crcLo = crc16 f.header.bytes := (frameValid_iff f).mp h
  cases f
  simp only [frameOf, ← h', hi8_be16, lo8_be16]

/-- The header of a write request is its address and value laid out (R83). -/
theorem write_of_header {h : Header} (hu : h.unitAddress = Const.unitAddr) (hf : h.functionCode = Const.fnWrite) :
    Header.write h.start h.qty = h := by
  have := Header.ofFields_eta h
  rwa [hu, hf] at this

/-- What the row of a header says about its fields (R86, R87, R190). -/
theorem headerRow_cases (h : Header) :
    (headerRow h = .readRun ∧ h = .readRun) ∨ (headerRow h = .readBasic ∧ h = .readBasic) ∨
    (headerRow h = .writeRegOn ∧ h = .write Const.regOnThr h.qty) ∨
    (headerRow h = .writeRegOff ∧ h = .write Const.regOffThr h.qty) ∨
    (headerRow h = .writeRegIllegal ∧ h = .write h.start h.qty ∧ h.start ≠ Const.regOnThr ∧ h.start ≠ Const.regOffThr) ∨
    (headerRow h = .unknown ∧ classify h.unitAddress h.functionCode h.start h.qty = .unknown) := by
  cases hk : classify h.unitAddress h.functionCode h.start h.qty with
  | readRun =>
    refine .inl ⟨by simp only [headerRow, hk], ?_⟩
    unfold classify at hk
    split at hk
    · rename_i e
      rw [← Header.ofFields_eta h, e.1, e.2.1, e.2.2.1, e.2.2.2]; rfl
    · split at hk
      · cases hk
      · split at hk <;> cases hk
  | readBasic =>
    refine .inr (.inl ⟨by simp only [headerRow, hk], ?_⟩)
    unfold classify at hk
    split at hk
    · cases hk
    · split at hk
      · rename_i e
        rw [← Header.ofFields_eta h, e.1, e.2.1, e.2.2.1, e.2.2.2]; rfl
      · split at hk <;> cases hk
  | writeReg =>
    obtain ⟨hu, hf⟩ := (classify_eq_writeReg_iff ..).mp hk
    have hw := write_of_header hu hf
    by_cases h1 : h.start = Const.regOnThr
    · exact .inr (.inr (.inl ⟨by simp only [headerRow, hk]; rw [if_pos h1], by rw [← h1]; exact hw.symm⟩))
    · by_cases h2 : h.start = Const.regOffThr
      · exact .inr (.inr (.inr (.inl ⟨by simp only [headerRow, hk]; rw [if_neg h1, if_pos h2],
          by rw [← h2]; exact hw.symm⟩)))
      · exact .inr (.inr (.inr (.inr (.inl ⟨by simp only [headerRow, hk]; rw [if_neg h1, if_neg h2], hw.symm, h1, h2⟩))))
  | unknown => exact .inr (.inr (.inr (.inr (.inr ⟨by simp only [headerRow, hk], rfl⟩))))

/-- The exception frame is a constant (R93). -/
theorem exceptionFrame_const : exceptionFrame Const.unitAddr Const.fnWrite = [0x06, 0x98, 0x02, 0x7B, 0xC0] := by
  decide +kernel

/-- Running the instruction a frame decodes to, on a channel that exists: the store becomes that of the reference, a response is
loaded as a whole or the transmit buffer is as it was, at most one event goes out, and nothing else but the accumulator
changes (R186 to R197). -/
theorem exec_decodeFrame {s : State} {c : Nat} {ch : Channel} (f : Frame) (hc : s.chans[c]? = some ch) :
    ∃ acc, exec (decodeFrame c f) s = .next { s with
      rs := (frameEffect s.cfg s.rs f).1
      chans := s.chans.set c
        { ch with
          txbuf := if (frameEffect s.cfg s.rs f).2 = [] then ch.txbuf else (frameEffect s.cfg s.rs f).2
          crc := acc }
      outputs := s.outputs ++ ((frameEvent f).map fun e => Output.event c e.1 e.2).toList } := by
  have hset : s.chans.set c ch = s.chans := by
    obtain ⟨h1, h2⟩ := List.getElem?_eq_some_iff.mp hc
    subst h2
    simp
  have happ : ∀ l : List Byte, appendChecksum l ≠ [] := by simp [appendChecksum]
  by_cases hv : frameValid f = true
  · have hb : ¬ f.crcRx ≠ crc16 f.body := by simpa using (frameValid_iff f).mp hv
    have hd : decodeFrame c f = decodeHeader c f.header := by simp [decodeFrame, hv]
    have hbytes : f.bytes = appendChecksum f.header.bytes := by
      rw [← frameOf_bytes, frameOf_of_valid hv]
    rw [hd]
    rcases headerRow_cases f.header with ⟨hr, -⟩ | ⟨hr, -⟩ | ⟨hr, hh⟩ | ⟨hr, hh⟩ | ⟨hr, hh, -⟩ | ⟨hr, -⟩ <;>
      simp only [decodeHeader, frameEffect, frameEvent, hr, if_neg hb]
    · refine ⟨crc16 (runBody s.cfg s.rs), ?_⟩
      show State.respond _ _ _ = _
      rw [State.respond_eq _ hc, if_neg (show runResponse s.cfg s.rs ≠ [] from happ _)]
      simp [runResponse]
    · refine ⟨crc16 (basicBody s.cfg s.rs), ?_⟩
      show State.respond _ _ _ = _
      rw [State.respond_eq _ hc, if_neg (show basicResponse s.cfg s.rs ≠ [] from happ _)]
      simp [basicResponse]
    · refine ⟨crc16 f.header.bytes, ?_⟩
      show State.respond _ _ _ = _
      rw [State.respond_eq (ch := ch) _ (by simpa using hc), ← hh, hbytes, if_neg (happ _)]
      simp [State.withStore, Store.setOnThreshold]
    · refine ⟨crc16 f.header.bytes, ?_⟩
      show State.respond _ _ _ = _
      rw [State.respond_eq (ch := ch) _ (by simpa using hc), ← hh, hbytes, if_neg (happ _)]
      simp [State.withStore, Store.setOffThreshold]
    · refine ⟨crc16 (exceptionBody Const.unitAddr Const.fnWrite), ?_⟩
      show State.raiseIllegalDataAddress _ _ _ = _
      rw [State.raiseIllegalDataAddress_eq _ hc, ← hh, frameOf_of_valid hv, hh, Header.unit_write, Header.fn_write,
        exceptionFrame_const, if_neg (by simp)]
      simp
    · refine ⟨ch.crc, ?_⟩
      show State.drop _ _ _ _ = _
      rw [State.drop_eq _ _ hc, frameOf_of_valid hv, if_true, hset]
      simp [State.emit]
  · have hb : f.crcRx ≠ crc16 f.body := by rwa [Ne, ← frameValid_iff]
    refine ⟨ch.crc, ?_⟩
    have hd : decodeFrame c f = .crcError c f := by simp [decodeFrame, hv]
    rw [hd]
    show State.drop _ _ _ _ = _
    rw [State.drop_eq _ _ hc]
    simp [frameEffect, frameEvent, if_pos hb, hset, State.emit]

/-- The state after an enabled dispatch of frame `f` on channel `c`, up to the accumulator's value `acc`. -/
def afterDispatch (s : State) (c : Nat) (f : Frame) (tail : List Byte) (acc : Word) : State :=
  { s with
    rs := (frameEffect s.cfg s.rs f).1
    chans := s.chans.set c ⟨tail, (frameEffect s.cfg s.rs f).2, acc⟩
    outputs := s.outputs ++ ((frameEvent f).map fun e => Output.event c e.1 e.2).toList }

/-- An enabled dispatch turn, for every frame (R186). -/
theorem dispatchTurn_eq {s : State} {c : Nat} {ch : Channel} {f : Frame} {tail : List Byte} (hc : s.chans[c]? = some ch)
    (hr : ch.rxbuf = f.bytes ++ tail) (ht : ch.txbuf = []) :
    ∃ acc, dispatchTurn c s = .next (afterDispatch s c f tail acc) := by
  have hlt := (List.getElem?_eq_some_iff.mp hc).1
  obtain ⟨acc, h⟩ := exec_decodeFrame
    (s := { s with chans := s.chans.set c { ch with rxbuf := tail, crc := crc16 f.body } }) (c := c)
    (ch := { ch with rxbuf := tail, crc := crc16 f.body }) f (by simp [hlt])
  refine ⟨acc, ?_⟩
  rw [dispatchTurn_frame hc hr ht, h]
  by_cases he : (frameEffect s.cfg s.rs f).2 = [] <;> simp [afterDispatch, he, ht, State.cfg] at he ⊢

/-- A host turn writes only the store and the outputs (R134). -/
theorem hostTurn_eq (op : BitVec 3) (w : Word) (s : State) :
    ∃ rs outs, exec (decodeHost op w) s = .next { s with rs := rs, outputs := s.outputs ++ outs } := by
  unfold decodeHost
  split <;>
    first
    | exact ⟨s.rs, [.snapshot s.rs], rfl⟩
    | exact ⟨_, [], by simp [exec, execHsetMode, execHsetAc, execHsetBat, execHsetOn, execHsetOff, execHreserved6,
        execHreserved7, State.withStore]; rfl⟩

/-- Everything a turn that gives a next state can have done (R17). -/
theorem takeTurn_next {u : Turn} {s t : State} (h : takeTurn u s = .next t) :
    (∃ c b ch, u = .rx c b ∧ s.chans[c]? = some ch ∧
      t = { s with
        chans := s.chans.set c (if ch.rxbuf.length < s.cfg.rxDepth then { ch with rxbuf := ch.rxbuf ++ [b] } else ch) }) ∨
    (∃ c ch, u = .dispatch c ∧ s.chans[c]? = some ch ∧ (ch.rxbuf.length < 8 ∨ ch.txbuf ≠ []) ∧ t = s) ∨
    (∃ c ch f tail acc, u = .dispatch c ∧ s.chans[c]? = some ch ∧ ch.rxbuf = f.bytes ++ tail ∧ ch.txbuf = [] ∧
      t = afterDispatch s c f tail acc) ∨
    (∃ c ch, u = .tx c ∧ s.chans[c]? = some ch ∧ ch.txbuf = [] ∧ t = s) ∨
    (∃ c ch b more, u = .tx c ∧ s.chans[c]? = some ch ∧ ch.txbuf = b :: more ∧
      t = { s with
        chans := s.chans.set c { ch with txbuf := more }
        outputs := s.outputs ++ [.byte c b more.isEmpty] }) ∨
    (∃ c ch, u = .clear c ∧ s.chans[c]? = some ch ∧
      t = { s with chans := s.chans.set c { ch with rxbuf := [], txbuf := [] } }) ∨
    (∃ op w rs outs, u = .host op w ∧ t = { s with rs := rs, outputs := s.outputs ++ outs }) ∨
    (u = .reset ∧ t = s.resetEngine) := by
  cases u with
  | rx c b =>
    obtain ⟨ch, hc, rfl⟩ := State.onChannel_next h
    exact .inl ⟨c, b, ch, rfl, hc, rfl⟩
  | dispatch c =>
    rcases s.fetch_cases c with ⟨-, hf⟩ | ⟨ch, hc, hn, -⟩ | ⟨ch, f, tail, hc, hr, ht, -⟩
    · simp [takeTurn, dispatchTurn, hf] at h
    · have h' : dispatchTurn c s = .next t := h
      rw [dispatchTurn_notEnabled hc hn] at h'
      cases h'
      exact .inr (.inl ⟨c, ch, rfl, hc, hn, rfl⟩)
    · obtain ⟨acc, he⟩ := dispatchTurn_eq hc hr ht
      have h' : dispatchTurn c s = .next t := h
      rw [he] at h'
      cases h'
      exact .inr (.inr (.inl ⟨c, ch, f, tail, acc, rfl, hc, hr, ht, rfl⟩))
  | tx c =>
    refine .inr (.inr (.inr ?_))
    have h' : s.transmit c = .next t := h
    cases hc : s.chans[c]? with
    | none => simp [State.transmit, hc] at h'
    | some ch =>
      cases ht : ch.txbuf with
      | nil =>
        rw [State.transmit_idle hc ht] at h'
        cases h'
        exact .inl ⟨c, ch, rfl, hc, ht, rfl⟩
      | cons b more =>
        rw [State.transmit_byte hc ht] at h'
        cases h'
        exact .inr (.inl ⟨c, ch, b, more, rfl, hc, ht, rfl⟩)
  | clear c =>
    obtain ⟨ch, hc, rfl⟩ := State.onChannel_next h
    exact .inr (.inr (.inr (.inr (.inr (.inl ⟨c, ch, rfl, hc, rfl⟩)))))
  | host op w =>
    obtain ⟨rs, outs, he⟩ := hostTurn_eq op w s
    have h' : exec (decodeHost op w) s = .next t := h
    rw [he] at h'
    cases h'
    exact .inr (.inr (.inr (.inr (.inr (.inr (.inl ⟨op, w, rs, outs, rfl, rfl⟩))))))
  | reset =>
    cases h
    exact .inr (.inr (.inr (.inr (.inr (.inr (.inr ⟨rfl, rfl⟩))))))

end Sys2Proof.Machine
end

