-- ==== Sys2Proof/Laws/PerInstr.lean ====
section
/-! SUPPORT. Facts stated of every instruction, one lemma per constructor. -/

namespace Sys2Proof.Laws.EncodingPort

open Machine

/-- An instruction's encoding stands on the port the table gives its row: a request's eight bytes on the receive port of its
channel, a host operation on the host port, a response on the transmit port of its channel (R81, R100, R101). -/
def Statement (i : Instr) : Prop :=
  ∀ (cfg : Cfg) (rs : Store),
    match encode cfg rs i with
    | .request c bytes => i.channel = some c ∧ i.isResponse = false ∧ bytes.length = Const.frameLen
    | .host _ _ => i.channel = none ∧ i.isResponse = false
    | .response c _ => i.channel = some c ∧ i.isResponse = true

theorem readRun (c : Nat) : Statement (.readRun c) := fun _ _ => ⟨rfl, rfl, rfl⟩
theorem readBasic (c : Nat) : Statement (.readBasic c) := fun _ _ => ⟨rfl, rfl, rfl⟩
theorem writeRegOn (c : Nat) (value : Word) : Statement (.writeRegOn c value) := fun _ _ => ⟨rfl, rfl, rfl⟩
theorem writeRegOff (c : Nat) (value : Word) : Statement (.writeRegOff c value) := fun _ _ => ⟨rfl, rfl, rfl⟩
theorem writeRegIllegal (c : Nat) (addr value : Word) : Statement (.writeRegIllegal c addr value) :=
  fun _ _ => ⟨rfl, rfl, rfl⟩
theorem unknown (c : Nat) (h : Header) : Statement (.unknown c h) := fun _ _ => ⟨rfl, rfl, rfl⟩
theorem writeReg (c : Nat) (addr value : Word) : Statement (.writeReg c addr value) := fun _ _ => ⟨rfl, rfl, rfl⟩
theorem crcError (c : Nat) (f : Frame) : Statement (.crcError c f) := fun _ _ => ⟨rfl, rfl, rfl⟩
theorem hstatus : Statement .hstatus := fun _ _ => ⟨rfl, rfl⟩
theorem hsetMode (m : Mode) : Statement (.hsetMode m) := fun _ _ => ⟨rfl, rfl⟩
theorem hsetAc (a : AcState) : Statement (.hsetAc a) := fun _ _ => ⟨rfl, rfl⟩
theorem hsetBat (v : Word) : Statement (.hsetBat v) := fun _ _ => ⟨rfl, rfl⟩
theorem hsetOn (v : Word) : Statement (.hsetOn v) := fun _ _ => ⟨rfl, rfl⟩
theorem hsetOff (v : Word) : Statement (.hsetOff v) := fun _ _ => ⟨rfl, rfl⟩
theorem hreserved6 : Statement .hreserved6 := fun _ _ => ⟨rfl, rfl⟩
theorem hreserved7 : Statement .hreserved7 := fun _ _ => ⟨rfl, rfl⟩
theorem respRun (c : Nat) : Statement (.respRun c) := fun _ _ => ⟨rfl, rfl⟩
theorem respBasic (c : Nat) : Statement (.respBasic c) := fun _ _ => ⟨rfl, rfl⟩
theorem respAck (c : Nat) (h : Header) : Statement (.respAck c h) := fun _ _ => ⟨rfl, rfl⟩
theorem respException (c : Nat) : Statement (.respException c) := fun _ _ => ⟨rfl, rfl⟩

end Sys2Proof.Laws.EncodingPort
end

