-- ==== Sys2Proof/Tests/Slice0.lean ====
section
/-! SUPPORT. Tests: ill-formed terms that are refused, words written out from the spec, one step per instruction against the
vectors of 95_test_vectors.md, and a witness for the hypotheses of every statement that has some. -/

namespace Sys2Proof.Tests

set_option Elab.async false -- one thread for the many small kernel evaluations below

open Machine

/-! ### Fixtures -/

/-- The device with configuration T0 (95_test_vectors.md section 2). -/
def deviceT0 : Device := ⟨fixtureT0, by decide⟩

/-- The machine right after reset under T0. -/
def resetT0 : State := State.initial deviceT0

/-- After reset under T0, channel 0 holds `rx` and `tx` and the turns are `turns`. -/
def channel0 (rx tx : List Byte) (turns : List Turn) : State :=
  { resetT0 with chans := resetT0.chans.set 0 ⟨rx, tx, 0xFFFF⟩, schedule := turns }

/-- Channel 0 holds the bytes `rx` and its dispatch is next. -/
def dispatch0 (rx : List Byte) : State := channel0 rx [] [.dispatch 0]

/-- The next state of an outcome. -/
def nextOf (o : Host.Outcome State Fault Refusal) : Option State :=
  match o with
  | .next s => some s
  | .fault _ => none
  | .refused _ => none

/-- A step that answers a next state with a property, from its evaluation. -/
theorem exists_next {o : Host.Outcome State Fault Refusal} {p : State → Bool} (h : (nextOf o).any p = true) :
    ∃ t, o = .next t ∧ p t = true := by
  cases o with
  | next t => exact ⟨t, rfl, h⟩
  | fault f => cases h
  | refused r => cases h

/-- The transmit buffer of channel 0 after a step. -/
def txAfter (s : State) : Option (List Byte) := (nextOf (step s)).bind fun t => t.chans[0]?.map Channel.txbuf

/-- The store after an instruction. -/
def storeAfter (i : Instr) (s : State) : Option Store := (nextOf (exec i s)).map State.rs

/-- The decoder answers this instruction. -/
def decodesTo (e : Encoding) (i : Instr) : Bool :=
  match decode fixtureT0 e with
  | .ok j => j == i
  | .error _ => false

/-- `RR` (R96). -/
def bytesRR : List Byte := [0x06, 0x12, 0x10, 0x00, 0x00, 0x24, 0xBC, 0xA5]
/-- `RB` (R96). -/
def bytesRB : List Byte := [0x06, 0x16, 0x10, 0x24, 0x00, 0x27, 0x4D, 0x6F]
/-- V50: write 0x0106 to the on threshold. -/
def bytesOn : List Byte := [0x06, 0x18, 0x10, 0x37, 0x01, 0x06, 0x14, 0xE3]
/-- V51: write 0x012C to the off threshold. -/
def bytesOff : List Byte := [0x06, 0x18, 0x10, 0x38, 0x01, 0x2C, 0xA5, 0x3F]
/-- V52: write to 0x1099. -/
def bytesIllegal : List Byte := [0x06, 0x18, 0x10, 0x99, 0x00, 0x00, 0xF4, 0x90]
/-- V32: quantity 0x23. -/
def bytesUnknown : List Byte := [0x06, 0x12, 0x10, 0x00, 0x00, 0x23, 0xFD, 0x67]
/-- V39: V52 with a bad checksum. -/
def bytesBad : List Byte := [0x06, 0x18, 0x10, 0x99, 0x00, 0x00, 0xF4, 0x91]

/-- V40, the run response after reset under T0. -/
def bytesV40 : List Byte :=
  [0x06, 0x12, 0x48, 0xD1, 0xD2, 0xD3, 0xD4, 0xA0, 0x00, 0x08, 0xFC, 0xA0, 0x02, 0xA0, 0x03, 0xA0, 0x04, 0xA0, 0x05,
   0x02, 0x08, 0xA0, 0x07, 0xA0, 0x08, 0xA0, 0x09, 0xA0, 0x0A, 0xA0, 0x0B, 0xA0, 0x0C, 0xA0, 0x0D, 0xA0, 0x0E, 0xA0,
   0x0F, 0xA0, 0x10, 0xA0, 0x11, 0xA0, 0x12, 0xA0, 0x13, 0xA0, 0x14, 0xA0, 0x15, 0xA0, 0x16, 0xA0, 0x17, 0xA0, 0x18,
   0xA0, 0x19, 0xA0, 0x1A, 0xA0, 0x1B, 0xA0, 0x1C, 0xA0, 0x1D, 0xA0, 0x1E, 0xA0, 0x1F, 0x07, 0x08, 0xA0, 0x21, 0xA0,
   0x22, 0x2E, 0xE0, 0x42, 0xB4]

/-- V44, the basic response after reset under T0. -/
def bytesV44 : List Byte :=
  [0x06, 0x16, 0x4E, 0xD1, 0xD2, 0xD3, 0xD4, 0xB0, 0x00, 0xB0, 0x01, 0xB0, 0x02, 0xB0, 0x03, 0xB0, 0x04, 0xB0, 0x05,
   0xB0, 0x06, 0xB0, 0x07, 0xB0, 0x08, 0xB0, 0x09, 0xB0, 0x0A, 0xB0, 0x0B, 0xB0, 0x0C, 0xB0, 0x0D, 0xB0, 0x0E, 0xB0,
   0x0F, 0xB0, 0x10, 0xB0, 0x11, 0xB0, 0x12, 0x01, 0x04, 0x00, 0xF0, 0xB0, 0x15, 0xB0, 0x16, 0xB0, 0x17, 0xB0, 0x18,
   0xB0, 0x19, 0xB0, 0x1A, 0xB0, 0x1B, 0xB0, 0x1C, 0xB0, 0x1D, 0xB0, 0x1E, 0xB0, 0x1F, 0xB0, 0x20, 0xB0, 0x21, 0xB0,
   0x22, 0xB0, 0x23, 0xB0, 0x24, 0xB0, 0x25, 0xB0, 0x26, 0x24, 0xEB]

/-! ### Ill-formed terms are refused (R8, R86, R87, R92) -/

theorem test_cfg_T0_accepted : fixtureT0.problem = none := by decide
theorem test_cfg_no_channel_refused : ({ fixtureT0 with nChan := 0 } : Cfg).problem = some .noChannel := by decide
theorem test_cfg_rxdepth_7_refused :
    ({ fixtureT0 with rxDepth := 7 } : Cfg).problem = some .receiveBufferTooShallow := by decide
theorem test_cfg_header_size_refused : ({ fixtureT0 with hdrSize := 8 } : Cfg).problem = some .headerSize := by decide
theorem test_cfg_run_template_refused :
    ({ fixtureT0 with tplRun := fixtureT0.tplRun.drop 1 } : Cfg).problem = some .runTemplateLength := by decide
theorem test_cfg_basic_template_refused :
    ({ fixtureT0 with tplBasic := 0x00 :: fixtureT0.tplBasic } : Cfg).problem = some .basicTemplateLength := by decide
theorem test_cfg_35_run_registers_refused :
    ({ fixtureT0 with nRegsRun := 35, tplRun := fixtureT0.tplRun.drop 2 } : Cfg).problem =
      some .tooFewRunRegisters := by decide
theorem test_cfg_20_basic_registers_refused :
    ({ fixtureT0 with nRegsBasic := 20, tplBasic := fixtureT0.tplBasic.drop 38 } : Cfg).problem =
      some .tooFewBasicRegisters := by decide

theorem test_channel_3_refused : (Instr.readRun 3).wellFormed fixtureT0 = false := by decide
theorem test_channel_2_accepted : (Instr.readRun 2).wellFormed fixtureT0 = true := by decide
theorem test_illegal_write_to_writable_refused :
    (Instr.writeRegIllegal 0 0x1037 0).wellFormed fixtureT0 = false := by decide
theorem test_unknown_of_supported_header_refused : (Instr.unknown 0 .readRun).wellFormed fixtureT0 = false := by decide
theorem test_crc_error_of_valid_frame_refused :
    (Instr.crcError 0 (frameOf .readRun)).wellFormed fixtureT0 = false := by decide +kernel
theorem test_ack_of_read_refused : (Instr.respAck 0 .readRun).wellFormed fixtureT0 = false := by decide

/-! ### The checksum (V1 to V19) -/

theorem test_crc_check_value : crc16 [0x31, 0x32, 0x33, 0x34, 0x35, 0x36, 0x37, 0x38, 0x39] = 0x4B37 := by decide +kernel
theorem test_crc_of_zero_byte : crc16 [0x00] = 0x40BF := by decide +kernel
theorem test_crc_update_worked_example : crcUpdate 0xFFFF 0x06 = 0x423F := by decide +kernel
theorem test_append_twice :
    appendChecksum (appendChecksum [0x06, 0x98, 0x02]) = [0x06, 0x98, 0x02, 0x7B, 0xC0, 0x00, 0x00] := by decide +kernel
theorem test_swapped_checksum_invalid : crcValid [0x06, 0x12, 0x10, 0x00, 0x00, 0x24, 0xA5, 0xBC] = false := by
  decide +kernel
theorem test_eight_zero_bytes_invalid : crcValid [0, 0, 0, 0, 0, 0, 0, 0] = false := by decide +kernel

/-! ### Every constructor's decoding, from bytes written out (R81, R86, R87, R90 to R93, R96, R100) -/

theorem test_decode_read_run : decodesTo (.request 1 bytesRR) (.readRun 1) = true := by decide +kernel
theorem test_decode_read_basic : decodesTo (.request 1 bytesRB) (.readBasic 1) = true := by decide +kernel
theorem test_decode_write_on : decodesTo (.request 1 bytesOn) (.writeRegOn 1 0x0106) = true := by decide +kernel
theorem test_decode_write_off : decodesTo (.request 1 bytesOff) (.writeRegOff 1 0x012C) = true := by decide +kernel
theorem test_decode_write_illegal :
    decodesTo (.request 1 [0x06, 0x18, 0x10, 0x99, 0x12, 0x34, 0xF9, 0xE7]) (.writeRegIllegal 1 0x1099 0x1234) = true := by
  decide +kernel
theorem test_decode_unknown :
    decodesTo (.request 1 bytesUnknown) (.unknown 1 ⟨0x06, 0x12, 0x10, 0x00, 0x00, 0x23⟩) = true := by decide +kernel
theorem test_decode_write_for_unit_7_unknown :
    decodesTo (.request 1 [0x07, 0x18, 0x10, 0x37, 0x01, 0x06, 0x15, 0x32])
      (.unknown 1 ⟨0x07, 0x18, 0x10, 0x37, 0x01, 0x06⟩) = true := by decide +kernel
theorem test_decode_crc_error :
    decodesTo (.request 1 bytesBad) (.crcError 1 ⟨⟨0x06, 0x18, 0x10, 0x99, 0x00, 0x00⟩, 0xF4, 0x91⟩) = true := by
  decide +kernel
theorem test_decode_write_class_row :
    decodesTo (encode fixtureT0 resetT0.rs (.writeReg 1 0x1038 0x012C)) (.writeRegOff 1 0x012C) = true := by decide +kernel
theorem test_decode_hstatus : decodesTo (.host 0 0x1234) .hstatus = true := by decide
theorem test_decode_hset_mode : decodesTo (.host 1 0x0001) (.hsetMode .night) = true := by decide
theorem test_decode_hset_mode_ignores_high_bits : decodesTo (.host 1 0xFFFE) (.hsetMode .day) = true := by decide
theorem test_decode_hset_ac : decodesTo (.host 2 0x0001) (.hsetAc .mainsLost) = true := by decide
theorem test_decode_hset_bat : decodesTo (.host 3 0xFFFF) (.hsetBat 0xFFFF) = true := by decide
theorem test_decode_hset_on : decodesTo (.host 4 0x0106) (.hsetOn 0x0106) = true := by decide
theorem test_decode_hset_off : decodesTo (.host 5 0x012C) (.hsetOff 0x012C) = true := by decide
theorem test_decode_hreserved6 : decodesTo (.host 6 0x1234) .hreserved6 = true := by decide
theorem test_decode_hreserved7 : decodesTo (.host 7 0xFFFF) .hreserved7 = true := by decide
theorem test_crc_of_run_body_V40 : appendChecksum (bytesV40.take 79) = bytesV40 := by
  have h1 : crc16 (bytesV40.take 20) = 0xEDA4 := by decide +kernel
  have h2 : ((bytesV40.drop 20).take 20).foldl crcUpdate 0xEDA4 = 0xB6E1 := by decide +kernel
  have h3 : ((bytesV40.drop 40).take 20).foldl crcUpdate 0xB6E1 = 0x0BC2 := by decide +kernel
  have h4 : ((bytesV40.drop 60).take 19).foldl crcUpdate 0x0BC2 = 0xB442 := by decide +kernel
  have h : crc16 (bytesV40.take 79) = 0xB442 := by
    rw [show bytesV40.take 79 = bytesV40.take 20 ++ (bytesV40.drop 20).take 20 ++ (bytesV40.drop 40).take 20 ++
      (bytesV40.drop 60).take 19 by decide +kernel, crc16_append, crc16_append, crc16_append, h1, h2, h3, h4]
  rw [appendChecksum, h]; decide +kernel
theorem test_crc_of_basic_body_V44 : appendChecksum (bytesV44.take 85) = bytesV44 := by
  have h1 : crc16 (bytesV44.take 20) = 0x2DFF := by decide +kernel
  have h2 : ((bytesV44.drop 20).take 20).foldl crcUpdate 0x2DFF = 0x3F73 := by decide +kernel
  have h3 : ((bytesV44.drop 40).take 20).foldl crcUpdate 0x3F73 = 0x1595 := by decide +kernel
  have h4 : ((bytesV44.drop 60).take 25).foldl crcUpdate 0x1595 = 0xEB24 := by decide +kernel
  have h : crc16 (bytesV44.take 85) = 0xEB24 := by
    rw [show bytesV44.take 85 = bytesV44.take 20 ++ (bytesV44.drop 20).take 20 ++ (bytesV44.drop 40).take 20 ++
      (bytesV44.drop 60).take 25 by decide +kernel, crc16_append, crc16_append, crc16_append, h1, h2, h3, h4]
  rw [appendChecksum, h]; decide +kernel
theorem test_decode_resp_run : decode fixtureT0 (.response 1 bytesV40) = .ok (.respRun 1) := by
  have h1 : bytesV40 ≠ exceptionFrame 6#8 24#8 := by decide +kernel
  have h2 : ackHeader bytesV40 = none := rfl
  have h3 : isRunResponse fixtureT0 bytesV40 = true := beq_iff_eq.mpr (by
    refine test_crc_of_run_body_V40.symm.trans (congrArg appendChecksum ?_)
    decide +kernel)
  simp [decode, decodeResponse, h1, h2, h3]
theorem test_decode_resp_basic : decode fixtureT0 (.response 1 bytesV44) = .ok (.respBasic 1) := by
  have h1 : bytesV44 ≠ exceptionFrame 6#8 24#8 := by decide +kernel
  have h2 : ackHeader bytesV44 = none := rfl
  have h3 : isRunResponse fixtureT0 bytesV44 = false := by decide +kernel
  have h4 : isBasicResponse fixtureT0 bytesV44 = true := beq_iff_eq.mpr (by
    refine test_crc_of_basic_body_V44.symm.trans (congrArg appendChecksum ?_)
    decide +kernel)
  simp [decode, decodeResponse, h1, h2, h3, h4]
theorem test_decode_resp_ack :
    decodesTo (.response 1 bytesOn) (.respAck 1 ⟨0x06, 0x18, 0x10, 0x37, 0x01, 0x06⟩) = true := by decide +kernel
theorem test_decode_resp_exception :
    decodesTo (.response 1 [0x06, 0x98, 0x02, 0x7B, 0xC0]) (.respException 1) = true := by decide +kernel
theorem test_decode_seven_bytes_rejected : decode fixtureT0 (.request 0 (bytesRR.take 7)) = .error (.notEightBytes 7) := rfl
theorem test_decode_read_request_is_no_response : decodesTo (.response 0 bytesRR) (.readRun 0) = false := by decide +kernel

theorem test_table_word_read_run : decodeTableWord 48 0x061210000024 = some (.readRun 0) := by decide +kernel
theorem test_table_word_write_on : decodeTableWord 48 0x061810370106 = some (.writeRegOn 0 0x0106) := by decide +kernel
theorem test_table_word_hset_off : decodeTableWord 8 5 = some (.hsetOff 0) := by decide
theorem test_table_word_crc_error :
    decodeTableWord 64 0x061810990000F491 = some (.crcError 0 ⟨⟨0x06, 0x18, 0x10, 0x99, 0x00, 0x00⟩, 0xF4, 0x91⟩) := by
  decide +kernel

/-! ### One step per instruction, against the vectors -/

theorem test_read_run_V40 : (txAfter (dispatch0 bytesRR)).map (List.take 79) = some (bytesV40.take 79) := by decide +kernel
theorem test_read_run_at_night_without_mains_V47 :
    (txAfter { dispatch0 bytesRR with rs := ⟨.night, .mainsLost, 0x0208, 0x0104, 0x00F0⟩ }).map
      (fun bs => (bs.drop 9).take 2 ++ (bs.drop 71).take 8) =
      some [0x00, 0x00, 0x00, 0x32, 0xA0, 0x21, 0xA0, 0x22, 0x00, 0x00] := by decide +kernel
theorem test_read_basic_V44 : (txAfter (dispatch0 bytesRB)).map (List.take 85) = some (bytesV44.take 85) := by decide +kernel
theorem test_read_basic_V46 :
    (txAfter { dispatch0 bytesRB with rs := ⟨.day, .mainsOk, 0, 0xFFFF, 0x0000⟩ }).map
      (fun bs => (bs.drop 45).take 4) = some [0xFF, 0xFF, 0x00, 0x00] := by decide +kernel
theorem test_write_on_V50_acknowledged : txAfter (dispatch0 bytesOn) = some bytesOn := by decide +kernel
theorem test_write_on_V50_stored :
    (nextOf (step (dispatch0 bytesOn))).map State.rs = some ⟨.day, .mainsOk, 0x0208, 0x0106, 0x00F0⟩ := by decide +kernel
theorem test_write_off_V51_acknowledged : txAfter (dispatch0 bytesOff) = some bytesOff := by decide +kernel
theorem test_write_off_V51_stored :
    (nextOf (step (dispatch0 bytesOff))).map State.rs = some ⟨.day, .mainsOk, 0x0208, 0x0104, 0x012C⟩ := by decide +kernel
theorem test_write_illegal_V52 : txAfter (dispatch0 bytesIllegal) = some [0x06, 0x98, 0x02, 0x7B, 0xC0] := by decide +kernel
theorem test_write_illegal_V76_event :
    (nextOf (step (dispatch0 bytesIllegal))).map State.outputs =
      some [.event 0 .illegalAddress (.ofNumber 0x061810990000F490)] := by decide +kernel
theorem test_unknown_V75 :
    (nextOf (step (dispatch0 bytesUnknown))).map State.outputs = some [.event 0 .unknown (.ofNumber 0x061210000023FD67)] := by
  decide +kernel
theorem test_unknown_V32_silent : txAfter (dispatch0 bytesUnknown) = some [] := by decide +kernel
theorem test_crc_error_V74 :
    (nextOf (step (dispatch0 bytesBad))).map State.outputs = some [.event 0 .crcError (.ofNumber 0x061810990000F491)] := by
  decide +kernel
theorem test_crc_error_V39_silent : txAfter (dispatch0 bytesBad) = some [] := by decide +kernel
theorem test_write_class_row : storeAfter (.writeReg 0 0x1037 0x00C8) resetT0 = some ⟨.day, .mainsOk, 0x0208, 0x00C8, 0x00F0⟩ := by
  decide +kernel
theorem test_hstatus_V60 : (nextOf (step { resetT0 with schedule := [.host 0 0] })).map State.outputs =
    some [.snapshot ⟨.day, .mainsOk, 0x0208, 0x0104, 0x00F0⟩] := by decide
theorem test_h_rdata_V60 : resetT0.hRdata = 0x00208010400F0 := by decide
theorem test_hset_mode_V61 : storeAfter (.hsetMode .night) resetT0 = some ⟨.night, .mainsOk, 0x0208, 0x0104, 0x00F0⟩ := by decide
theorem test_hset_ac_V62 : storeAfter (.hsetAc .mainsLost) resetT0 = some ⟨.day, .mainsLost, 0x0208, 0x0104, 0x00F0⟩ := by decide
theorem test_hset_bat_V63 : storeAfter (.hsetBat 0xFFFF) resetT0 = some ⟨.day, .mainsOk, 0xFFFF, 0x0104, 0x00F0⟩ := by decide
theorem test_hset_on_V64 : storeAfter (.hsetOn 0x0106) resetT0 = some ⟨.day, .mainsOk, 0x0208, 0x0106, 0x00F0⟩ := by decide
theorem test_hset_off_V65 : storeAfter (.hsetOff 0x012C) resetT0 = some ⟨.day, .mainsOk, 0x0208, 0x0104, 0x012C⟩ := by decide
theorem test_hreserved6_V66 : step { resetT0 with schedule := [.host 6 0x1234] } = .next resetT0 := rfl
theorem test_hreserved7_V66 : step { resetT0 with schedule := [.host 7 0xFFFF] } = .next resetT0 := rfl
theorem test_resp_exception : (nextOf (exec (.respException 0) resetT0)).bind (fun t => t.chans[0]?.map Channel.txbuf) =
    some [0x06, 0x98, 0x02, 0x7B, 0xC0] := by decide +kernel
theorem test_resp_ack : (nextOf (exec (.respAck 0 ⟨0x06, 0x18, 0x10, 0x38, 0x00, 0xF0⟩) resetT0)).bind
    (fun t => t.chans[0]?.map Channel.txbuf) = some [0x06, 0x18, 0x10, 0x38, 0x00, 0xF0, 0xA5, 0x36] := by decide +kernel
theorem test_resp_run : (nextOf (exec (.respRun 0) resetT0)).bind (fun t => t.chans[0]?.map fun ch => ch.txbuf.take 79) =
    some (bytesV40.take 79) := by decide +kernel
theorem test_resp_basic : (nextOf (exec (.respBasic 0) resetT0)).bind (fun t => t.chans[0]?.map fun ch => ch.txbuf.take 85) =
    some (bytesV44.take 85) := by decide +kernel

/-! ### The synthesizer called directly (V48 to V49) and the transport turns (V22 to V25, V72, V73) -/

theorem test_patch_V48 :
    patchAll 7 (runBlock fixtureT0) [(0x1024, 0x1234), (0x0FFF, 0x5678)] = fixtureT0.tplRun := by
  decide +kernel
theorem test_patch_V48b :
    (patchAll 7 (basicBlock fixtureT0) [(0x104A, 0x1234)]).drop 83 = [0x12, 0x34] := by decide +kernel
theorem test_patch_V49 :
    ((patchAll 7 (basicBlock fixtureT0) [(0x1037, 0x0001), (0x1037, 0x0002)]).drop 45).take 4 = [0x00, 0x02, 0xB0, 0x14] := by decide +kernel
theorem test_seven_bytes_wait_V22 : step (dispatch0 (bytesRR.take 7)) = .next (channel0 (bytesRR.take 7) [] []) := rfl
theorem test_clear_V23 : step (channel0 [0x06, 0x18, 0x10] [0x7B, 0xC0] [.clear 0]) = .next (channel0 [] [] []) := rfl
theorem test_ninth_byte_not_taken_V25 :
    step (channel0 bytesRR [0x01] [.rx 0 0x55]) = .next (channel0 bytesRR [0x01] []) := rfl
theorem test_last_byte_marked_V72 :
    (nextOf (step (channel0 [] [0xC0] [.tx 0]))).map State.outputs = some [.byte 0 0xC0 true] := by decide
theorem test_reset_V73 :
    step { channel0 [0x06, 0x18, 0x10] [1, 2, 3] [.reset] with rs := ⟨.night, .mainsLost, 0xFFFF, 0x0106, 0x012C⟩ } =
      .next resetT0 := rfl
theorem test_fetch_word_runs_from_reset :
    (match step (State.reset.withFetchWord 48 0x061810370000) with
     | .next _ => true
     | .fault _ => false
     | .refused _ => false) = true := by decide +kernel

/-! ### Witnesses: a concrete state and operands for the hypotheses of every statement that has some -/

/-- A frame of eight bytes (zeros if there are fewer). -/
def frame (bs : List Byte) : Frame :=
  match Frame.take bs with
  | some (f, _) => f
  | none => ⟨⟨0, 0, 0, 0, 0, 0⟩, 0, 0⟩

theorem witness_DecodingAnEncodedRequestGivesItBack :
    (Instr.writeRegIllegal 2 0xFFFF 0xFFFF).wellFormed fixtureT0 = true ∧
    (Instr.writeRegIllegal 2 0xFFFF 0xFFFF).isResponse = false ∧
    (∀ c a v, Instr.writeRegIllegal 2 0xFFFF 0xFFFF ≠ .writeReg c a v) := ⟨by decide, rfl, by simp⟩

theorem witness_DecodingASentResponseGivesItBack :
    (Instr.respBasic 2).wellFormed deviceT0.cfg = true ∧ (Instr.respBasic 2).isResponse = true ∧
    deviceT0.cfg.tplRun.length ≠ deviceT0.cfg.tplBasic.length := by decide

theorem witness_dispatch_bad_checksum :
    dispatches (dispatch0 (bytesBad ++ [0x06])) 0 ⟨bytesBad ++ [0x06], [], 0xFFFF⟩ (frame bytesBad) [0x06] [] ∧
    be16 (frame bytesBad).crcHi (frame bytesBad).crcLo ≠ crc16 (frame bytesBad).header.bytes :=
  ⟨⟨rfl, rfl, rfl, rfl⟩, by decide +kernel⟩

theorem witness_dispatch_unknown :
    dispatches (dispatch0 bytesUnknown) 0 ⟨bytesUnknown, [], 0xFFFF⟩ (frame bytesUnknown) [] [] ∧
    be16 (frame bytesUnknown).crcHi (frame bytesUnknown).crcLo = crc16 (frame bytesUnknown).header.bytes ∧
    (frame bytesUnknown).header ≠ ⟨0x06, 0x12, 0x10, 0x00, 0x00, 0x24⟩ ∧
    (frame bytesUnknown).header ≠ ⟨0x06, 0x16, 0x10, 0x24, 0x00, 0x27⟩ ∧
    ((frame bytesUnknown).header.unitAddress ≠ 0x06 ∨ (frame bytesUnknown).header.functionCode ≠ 0x18) :=
  ⟨⟨rfl, rfl, rfl, rfl⟩, by decide +kernel⟩

theorem witness_dispatch_illegal_write_beside_a_writable_register :
    let f := frame [0x06, 0x18, 0x10, 0x36, 0x00, 0x01, 0x05, 0x71]
    dispatches (dispatch0 f.bytes) 0 ⟨f.bytes, [], 0xFFFF⟩ f [] [] ∧
    be16 f.crcHi f.crcLo = crc16 f.header.bytes ∧ f.header.unitAddress = 0x06 ∧ f.header.functionCode = 0x18 ∧
    f.header.start ≠ 0x1037 ∧ f.header.start ≠ 0x1038 :=
  ⟨⟨rfl, rfl, rfl, rfl⟩, by decide +kernel⟩

theorem witness_ValidSequencesHaveZeroResidue : 2 ≤ ([0xFF, 0xFF] : List Byte).length ∧ crcValid [0xFF, 0xFF] = true := by
  decide +kernel

theorem witness_SingleBitChangesAreDetected : 63 < 64 ∧ frameValid (frame bytesRR) = true := by decide +kernel

theorem witness_EveryResponseEndsInItsChecksum :
    (dispatch0 bytesOn).schedule = [.dispatch 0] ∧ (dispatch0 bytesOn).chans[0]? = some ⟨bytesOn, [], 0xFFFF⟩ ∧
    ∃ t, step (dispatch0 bytesOn) = .next t ∧ (t.chans[0]?.any fun ch => !ch.txbuf.isEmpty) = true :=
  ⟨rfl, rfl, exists_next (by decide +kernel)⟩

theorem witness_PatchWritesItsSlotOnly_first_and_last_slot :
    fixtureT0.tplRun.length = 7 + 2 * (runBlock fixtureT0).nregs ∧
    (0x1000#16).toNat = (runBlock fixtureT0).base.toNat + 0 ∧
    (0x1023#16).toNat = (runBlock fixtureT0).base.toNat + 35 ∧ 35 < (runBlock fixtureT0).nregs := by decide

theorem witness_patch_out_of_range_on_both_sides :
    (0x0FFF#16).toNat < (runBlock fixtureT0).base.toNat ∧
    (runBlock fixtureT0).base.toNat + (runBlock fixtureT0).nregs ≤ (0x1024#16).toNat := by decide

theorem witness_PatchOrderMattersOnlyForDuplicates :
    List.Perm [((0x1000 : Word), (1 : Word)), (0x1001, 2)] [(0x1001, 2), (0x1000, 1)] ∧
    ([((0x1000 : Word), (1 : Word)), (0x1001, 2)].map (·.1)).Nodup ∧
    (0x1037 : Word) ∈ ([((0x1038 : Word), (1 : Word)), (0x1037, 2)].map (·.1)) :=
  ⟨List.Perm.swap _ _ _, by decide, by decide⟩

theorem witness_WrappedIndexCompareIsTheRangeTest :
    (runBlock fixtureT0).nregs < 0xEFDC ∧ 0 ≤ slotIndex (runBlock fixtureT0) 0x1023 ∧
    slotIndex (runBlock fixtureT0) 0x1023 < (runBlock fixtureT0).nregs ∧ slotIndex (basicBlock fixtureT0) 0x0000 < 0 := by
  decide

theorem witness_StructuredFormGivesTheSameBytes :
    (basicBlock fixtureT0).tpl.length = 7 + 2 * (basicBlock fixtureT0).nregs := by decide

theorem witness_ResponseSlotsShowTheDeviceRegisters :
    runRegister deviceT0.cfg resetT0.rs 0x1023 = some 0x2EE0 ∧ runRegister deviceT0.cfg resetT0.rs 0x1000 = some 0xA000 ∧
    basicRegister deviceT0.cfg resetT0.rs 0x104A = some 0xB026 ∧ basicRegister deviceT0.cfg resetT0.rs 0x1024 = some 0xB000 := by
  decide

/-- The last channel exists: the hypothesis of the statements about one instruction. -/
theorem witness_channel_exists :
    resetT0.chans[0]? = some Channel.empty ∧ resetT0.chans[2]? = some Channel.empty ∧ 2 < resetT0.chans.length := by decide

theorem witness_IllegalWriteTakesTheException :
    (0x0000#16) ≠ 0x1037 ∧ (0x0000#16) ≠ 0x1038 ∧ (0x1039#16) ≠ 0x1037 ∧ (0x1039#16) ≠ 0x1038 ∧
    resetT0.chans[2]? = some Channel.empty := by decide

theorem witness_AcknowledgmentEqualsTheRequest :
    (dispatches (dispatch0 bytesOn) 0 ⟨bytesOn, [], 0xFFFF⟩ (frame bytesOn) [] [] ∧ frameValid (frame bytesOn) = true ∧
      (frame bytesOn).header.unitAddress = 0x06 ∧ (frame bytesOn).header.functionCode = 0x18 ∧
      (frame bytesOn).header.start = 0x1037) ∧
    (dispatches (dispatch0 bytesOff) 0 ⟨bytesOff, [], 0xFFFF⟩ (frame bytesOff) [] [] ∧ frameValid (frame bytesOff) = true ∧
      (frame bytesOff).header.start = 0x1038) :=
  ⟨⟨⟨rfl, rfl, rfl, rfl⟩, by decide +kernel⟩, ⟨rfl, rfl, rfl, rfl⟩, by decide +kernel⟩

theorem witness_AbsentChannelFaults : (Instr.readRun 3).channel = some 3 ∧ resetT0.chans[3]? = none := by decide

theorem witness_DispatchStepRunsTheDecodedFrame :
    dispatches (dispatch0 (bytesRR ++ [0x06, 0x16])) 0 ⟨bytesRR ++ [0x06, 0x16], [], 0xFFFF⟩ (frame bytesRR) [0x06, 0x16] [] :=
  ⟨rfl, rfl, rfl, rfl⟩

theorem witness_host_turn : ({ resetT0 with schedule := [.host 7 0xFFFF] } : State).schedule = .host 7 0xFFFF :: [] := rfl

theorem witness_DispatchWaitsUntilEnabled :
    ((dispatch0 (bytesRR.take 7)).schedule = [.dispatch 0] ∧
      (dispatch0 (bytesRR.take 7)).chans[0]? = some ⟨bytesRR.take 7, [], 0xFFFF⟩ ∧ (bytesRR.take 7).length < 8) ∧
    ((dispatch0 bytesRR).schedule = [.dispatch 0] ∧ (dispatch0 bytesRR).chans[0]? = some ⟨bytesRR, [], 0xFFFF⟩ ∧
      8 ≤ bytesRR.length) := by decide

theorem witness_ReceiveTurnAppendsOrWaits :
    ((channel0 (bytesRR.take 7) [] [.rx 0 0xA5]).chans[0]? = some ⟨bytesRR.take 7, [], 0xFFFF⟩ ∧
      (bytesRR.take 7).length < (channel0 (bytesRR.take 7) [] [.rx 0 0xA5]).cfg.rxDepth) ∧
    ((channel0 bytesRR [] [.rx 0 0xA5]).chans[0]? = some ⟨bytesRR, [], 0xFFFF⟩ ∧
      (channel0 bytesRR [] [.rx 0 0xA5]).cfg.rxDepth ≤ bytesRR.length) := by decide

theorem witness_TransmitTurnSendsTheFirstByte :
    (channel0 [] [0x7B, 0xC0] [.tx 0]).schedule = [.tx 0] ∧
    (channel0 [] [0x7B, 0xC0] [.tx 0]).chans[0]? = some ⟨[], [0x7B, 0xC0], 0xFFFF⟩ ∧
    (channel0 [] [] [.tx 0]).chans[0]? = some ⟨[], [], 0xFFFF⟩ := by decide

theorem witness_ClearEmptiesItsChannelOnly :
    (channel0 [0x06] [0xC0] [.clear 0]).schedule = [.clear 0] ∧
    (channel0 [0x06] [0xC0] [.clear 0]).chans[0]? = some ⟨[0x06], [0xC0], 0xFFFF⟩ := by decide

theorem witness_ResetTurnRestoresEverything : (channel0 [0x06] [0xC0] [.reset]).schedule = .reset :: [] := rfl

theorem witness_EveryStepKeepsTheInvariant :
    (dispatch0 bytesRB).inv = true ∧ ∃ t, step (dispatch0 bytesRB) = .next t := ⟨by decide, (exists_next (p := fun _ => true) (by decide +kernel)).imp fun _ h => h.1⟩

theorem witness_StepKeepsConfigurationAndUsesUpItsTurn :
    ∃ t, step { resetT0 with schedule := [.host 0 0, .reset] } = .next t := ⟨_, rfl⟩

theorem witness_NoTurnStopsTheEngine :
    (channel0 bytesRB [] [.dispatch 0, .rx 2 0x00, .host 1 1, .reset]).inv = true ∧
    (channel0 bytesRB [] [.dispatch 0, .rx 2 0x00, .host 1 1, .reset]).portsExist = true := by decide

theorem witness_WireNeverWritesHostFields :
    (dispatch0 bytesOn).schedule = [.dispatch 0] ∧ (∀ op w, Turn.dispatch 0 ≠ .host op w) ∧ Turn.dispatch 0 ≠ .reset ∧
    ∃ t, step (dispatch0 bytesOn) = .next t := ⟨rfl, by simp, by simp, (exists_next (p := fun _ => true) (by decide +kernel)).imp fun _ h => h.1⟩

theorem witness_OnlyItsOwnWriteRequestChangesAThreshold :
    (∃ t, step (dispatch0 bytesOn) = .next t ∧ (t.rs.onThreshold != (dispatch0 bytesOn).rs.onThreshold) = true) ∧
    (∃ t, step (dispatch0 bytesOff) = .next t ∧ (t.rs.offThreshold != (dispatch0 bytesOff).rs.offThreshold) = true) :=
  ⟨exists_next (by decide +kernel), exists_next (by decide +kernel)⟩

theorem witness_ChannelsAreIsolated :
    (dispatch0 bytesOn).schedule = [.dispatch 0] ∧ Turn.dispatch 0 ≠ .reset ∧ (Turn.dispatch 0).channel ≠ some 2 ∧
    ∃ t, step (dispatch0 bytesOn) = .next t := ⟨rfl, by simp, by decide, (exists_next (p := fun _ => true) (by decide +kernel)).imp fun _ h => h.1⟩

theorem witness_PendingResponseIsASnapshot :
    (channel0 [] [0xC0] [.host 4 0xFFFF]).chans[0]? = some ⟨[], [0xC0], 0xFFFF⟩ ∧ Turn.host 4 0xFFFF ≠ .tx 0 ∧
    Turn.host 4 0xFFFF ≠ .clear 0 ∧ Turn.host 4 0xFFFF ≠ .reset ∧
    ∃ t, step (channel0 [] [0xC0] [.host 4 0xFFFF]) = .next t := ⟨rfl, by simp, by simp, by simp, _, rfl⟩

theorem witness_EnabledDispatchStaysEnabled :
    (channel0 bytesRR [] [.dispatch 1]).dispatchEnabled 0 = true ∧ Turn.dispatch 1 ≠ .dispatch 0 ∧
    Turn.dispatch 1 ≠ .clear 0 ∧ Turn.dispatch 1 ≠ .reset ∧ ∃ t, step (channel0 bytesRR [] [.dispatch 1]) = .next t :=
  ⟨by decide, by decide, by decide, by decide, _, rfl⟩

theorem witness_ReceivedBytesKeepTheirOrder :
    let chunks : List (List Byte) := [bytesRR.take 3, [], bytesRR.drop 3]
    let s := channel0 [] [] ((chunks.map fun chunk => chunk.map (Turn.rx 0)).flatten ++ [])
    s.chans[0]? = some ⟨[], [], 0xFFFF⟩ ∧ ([] : List Byte).length + chunks.flatten.length ≤ s.cfg.rxDepth := by decide

theorem witness_PendingBytesLeaveInOrder :
    (channel0 [] [0x7B, 0xC0] (List.replicate 2 (.tx 0) ++ [])).chans[0]? = some ⟨[], [0x7B, 0xC0], 0xFFFF⟩ := by decide

/-- T0 with a receive buffer of 16 bytes: with the default depth of 8 a dispatchable channel takes no further byte. -/
def deviceDepth16 : Device := ⟨{ fixtureT0 with rxDepth := 16 }, by decide⟩

theorem witness_ReceiveAndDispatchCommute :
    let s : State := { channel0 bytesRR [] [] with device := deviceDepth16 }
    s.chans[0]? = some ⟨bytesRR, [], 0xFFFF⟩ ∧ 8 ≤ bytesRR.length ∧ bytesRR.length < s.cfg.rxDepth := by decide

theorem witness_SupportedRequestGetsItsWholeResponse :
    let turns := List.replicate (frameEffect fixtureT0 resetT0.rs (frame bytesRR)).2.length (Turn.tx 0) ++ []
    dispatches (channel0 bytesRR [] (.dispatch 0 :: turns)) 0 ⟨bytesRR, [], 0xFFFF⟩ (frame bytesRR) [] turns ∧
    frameValid (frame bytesRR) = true ∧ (frame bytesRR).header.supported = true :=
  ⟨⟨rfl, rfl, rfl, rfl⟩, by decide +kernel, by decide +kernel⟩

theorem witness_ChannelRefinesTheFrameStream :
    let fs := [frame bytesBad, frame bytesOn, frame bytesRB]
    let s := channel0 (fs.flatMap Frame.bytes ++ [0x06]) [] (frameTurns 0 87 fs.length ++ [])
    s.chans[0]? = some ⟨fs.flatMap Frame.bytes ++ [0x06], [], 0xFFFF⟩ ∧ maxResponse s.cfg ≤ 87 := by decide +kernel

/-- Channels 0 and 1 each hold a write request to `a`. -/
def racing (a : Word) : State :=
  { resetT0 with chans := [⟨(frameOf (.write a 0x0064)).bytes, [], 0xFFFF⟩, ⟨(frameOf (.write a 0x00C8)).bytes, [], 0xFFFF⟩,
    Channel.empty] }

theorem witness_RacingWritesLeaveTheLastDispatched :
    ((racing 0x1037).chans[0]? = some ⟨(frameOf (.write 0x1037 0x0064)).bytes, [], 0xFFFF⟩ ∧
      (racing 0x1037).chans[1]? = some ⟨(frameOf (.write 0x1037 0x00C8)).bytes, [], 0xFFFF⟩) ∧
    ((racing 0x1038).chans[0]? = some ⟨(frameOf (.write 0x1038 0x0064)).bytes, [], 0xFFFF⟩ ∧
      (racing 0x1038).chans[1]? = some ⟨(frameOf (.write 0x1038 0x00C8)).bytes, [], 0xFFFF⟩) ∧ (0 : Nat) ≠ 1 :=
  ⟨⟨rfl, rfl⟩, ⟨rfl, rfl⟩, by decide⟩

theorem witness_LaterReadSeesBothWrites :
    2 < resetT0.chans.length ∧
    ((Instr.writeReg 0 0x1038 7 = .writeRegOff 0 7 ∨ Instr.writeReg 0 0x1038 7 = .writeReg 0 0x1038 7) ∧
      (Instr.writeRegOn 1 5 = .writeRegOn 1 5 ∨ Instr.writeRegOn 1 5 = .writeReg 1 0x1037 5)) := by decide

theorem witness_RepeatingAReadOrWriteChangesNothing :
    Instr.writeRegOn 2 5 ∈ [Instr.writeRegOn 2 5] ∧ ∃ t, exec (.writeRegOn 2 5) resetT0 = .next t := ⟨by simp, _, rfl⟩

end Sys2Proof.Tests
end

/-! PROOFS. The family of the scope: a channel the device does not have, what a receive, a transmit and a dispatch turn do
(R9, R10, R171, R186, R199), what every step keeps (R7, R17, R36), and the runs made of such turns (R172, R266). -/

namespace Sys2Proof.Machine

/-! ### An operation on a channel the device does not have -/

section AbsentChannel

variable {s : State} {c : Nat}

theorem State.onChannel_absent (f : Channel → Channel) (hc : s.chans[c]? = none) :
    s.onChannel c f = .fault (.noSuchChannel c) := by
  simp [State.onChannel, hc]

theorem State.respond_absent (body : List Byte) (hc : s.chans[c]? = none) :
    s.respond c body = .fault (.noSuchChannel c) :=
  State.onChannel_absent _ hc

theorem State.drop_absent (kind : DiagKind) (f : Frame) (hc : s.chans[c]? = none) :
    s.drop c kind f = .fault (.noSuchChannel c) := by
  simp [State.drop, hc]

theorem State.raiseIllegalDataAddress_absent (h : Header) (hc : s.chans[c]? = none) :
    s.raiseIllegalDataAddress c h = .fault (.noSuchChannel c) :=
  State.respond_absent _ hc

/-- The write handler faults at its delivery, whichever of its three ways it goes (R193, R206). -/
theorem execWriteReg_absent (addr value : Word) (hc : s.chans[c]? = none) :
    execWriteReg c addr value s = .fault (.noSuchChannel c) := by
  unfold execWriteReg
  dsimp only
  split
  · exact State.respond_absent _ hc
  · split
    · exact State.respond_absent _ hc
    · exact State.raiseIllegalDataAddress_absent _ hc

end AbsentChannel

/-- Settles O32, by cases on the instruction: each row that names a channel delivers a response, drops a frame or takes the
exception, and each of the three faults. -/
theorem absentChannelFaults : Obligations.AbsentChannelFaults := by
  intro i s c hi hc
  cases i with
  | readRun d | readBasic d | respRun d | respBasic d | respException d => cases hi; exact State.respond_absent _ hc
  | writeRegOn d v | writeRegOff d v => cases hi; exact State.respond_absent _ hc
  | respAck d h => cases hi; exact State.respond_absent _ hc
  | writeRegIllegal d a v => cases hi; exact State.raiseIllegalDataAddress_absent _ hc
  | writeReg d a v => cases hi; exact execWriteReg_absent a v hc
  | unknown d h => cases hi; exact State.drop_absent _ _ hc
  | crcError d f => cases hi; exact State.drop_absent _ _ hc
  | hstatus | hreserved6 | hreserved7 => cases hi
  | hsetMode m => cases hi
  | hsetAc a => cases hi
  | hsetBat v | hsetOn v | hsetOff v => cases hi

/-! ### One step of each transport agent, as an equation -/

section Steps

variable {s : State} {c : Nat} {ch : Channel} {rest : List Turn}

/-- Putting a channel back where it stands changes no channel. -/
theorem set_chan_self {chans : List Channel} (hc : chans[c]? = some ch) : chans.set c ch = chans := by
  obtain ⟨hlt, rfl⟩ := List.getElem?_eq_some_iff.mp hc
  exact List.set_getElem_self hlt

theorem getElem?_set_chan_self {chans : List Channel} (hc : chans[c]? = some ch) (ch' : Channel) :
    (chans.set c ch')[c]? = some ch' := by
  obtain ⟨hlt, -⟩ := List.getElem?_eq_some_iff.mp hc
  exact List.getElem?_set_self hlt

theorem step_rx_of_room {b : Byte} (hs : s.schedule = .rx c b :: rest) (hc : s.chans[c]? = some ch)
    (hroom : ch.rxbuf.length < s.cfg.rxDepth) :
    step s = .next { s with schedule := rest, chans := s.chans.set c { ch with rxbuf := ch.rxbuf ++ [b] } } := by
  have h := State.receive_eq (s := { s with schedule := rest }) b hc
  rw [if_pos hroom] at h
  exact (step_turn hs).trans h

theorem step_rx_of_full {b : Byte} (hs : s.schedule = .rx c b :: rest) (hc : s.chans[c]? = some ch)
    (hfull : s.cfg.rxDepth ≤ ch.rxbuf.length) : step s = .next { s with schedule := rest } := by
  have h := State.receive_eq (s := { s with schedule := rest }) b hc
  rw [if_neg (Nat.not_lt.mpr hfull), set_chan_self hc] at h
  exact (step_turn hs).trans h

theorem step_tx_of_pending {b : Byte} {more : List Byte} (hs : s.schedule = .tx c :: rest) (hc : s.chans[c]? = some ch)
    (ht : ch.txbuf = b :: more) :
    step s = .next { s with
      schedule := rest
      chans := s.chans.set c { ch with txbuf := more }
      outputs := s.outputs ++ [.byte c b more.isEmpty] } :=
  (step_turn hs).trans (State.transmit_byte (s := { s with schedule := rest }) hc ht)

theorem step_tx_of_idle (hs : s.schedule = .tx c :: rest) (hc : s.chans[c]? = some ch) (ht : ch.txbuf = []) :
    step s = .next { s with schedule := rest } :=
  (step_turn hs).trans (State.transmit_idle (s := { s with schedule := rest }) hc ht)

theorem step_dispatch_of_waiting (hs : s.schedule = .dispatch c :: rest) (hc : s.chans[c]? = some ch)
    (hw : ch.rxbuf.length < 8 ∨ ch.txbuf ≠ []) : step s = .next { s with schedule := rest } :=
  (step_turn hs).trans (dispatchTurn_notEnabled (s := { s with schedule := rest }) hc hw)

/-- An enabled dispatch step runs the frame at the head of the receive buffer (R186). -/
theorem step_dispatch_of_enabled {f : Frame} {tail : List Byte} (hd : dispatches s c ch f tail rest) :
    ∃ acc, step s = .next (afterDispatch { s with schedule := rest } c f tail acc) := by
  obtain ⟨hs, hc, hr, ht⟩ := hd
  obtain ⟨acc, h⟩ := dispatchTurn_eq (s := { s with schedule := rest }) hc hr ht
  exact ⟨acc, (step_turn hs).trans h⟩

theorem afterDispatch_chan (f : Frame) (tail : List Byte) (acc : Word) (hc : s.chans[c]? = some ch) :
    (afterDispatch s c f tail acc).chans[c]? = some ⟨tail, (frameEffect s.cfg s.rs f).2, acc⟩ :=
  getElem?_set_chan_self hc _

/-- Eight buffered bytes or more begin with a frame (R173). -/
theorem exists_frame_of_length {bs : List Byte} (h : 8 ≤ bs.length) : ∃ f : Frame, bs = f.bytes ++ bs.drop 8 := by
  cases ht : Frame.take bs with
  | none => exact absurd ((Frame.take_eq_none_iff bs).mp ht) (Nat.not_lt.mpr h)
  | some p =>
    obtain ⟨f, tail⟩ := p
    have hbs : bs = f.bytes ++ tail := Frame.take_some ht
    refine ⟨f, ?_⟩
    rw [hbs, List.drop_left' f.length_bytes]

end Steps

/-- Settles O37, by the two equations of a receive step. -/
theorem receiveTurnAppendsOrWaits : Obligations.ReceiveTurnAppendsOrWaits := by
  intro s c b ch rest hs hc
  exact ⟨step_rx_of_room hs hc, step_rx_of_full hs hc⟩

/-- Settles O38. The mark of the model, `more.isEmpty`, is the spec's `length = 1` of the buffer before the step. -/
theorem transmitTurnSendsTheFirstByte : Obligations.TransmitTurnSendsTheFirstByte := by
  intro s c ch rest hs hc
  refine ⟨fun b more ht => ?_, step_tx_of_idle hs hc⟩
  have hmark : decide (ch.txbuf.length = 1) = more.isEmpty := by
    rw [ht]
    cases more <;> simp
  rw [hmark]
  exact step_tx_of_pending hs hc ht

/-- Settles O36: an enabled dispatch takes the frame with which the eight buffered bytes begin. -/
theorem dispatchWaitsUntilEnabled : Obligations.DispatchWaitsUntilEnabled := by
  intro s c ch rest hs hc
  refine ⟨step_dispatch_of_waiting hs hc, fun hlen ht => ?_⟩
  obtain ⟨f, hr⟩ := exists_frame_of_length hlen
  obtain ⟨acc, hstep⟩ := step_dispatch_of_enabled ⟨hs, hc, hr, ht⟩
  exact ⟨_, _, hstep, afterDispatch_chan (s := { s with schedule := rest }) f _ acc hc, rfl⟩

/-! ### What every step keeps -/

/-- A turn never writes the configuration or the turns after it, and takes no output back (R7, R36). -/
theorem takeTurn_keeps {u : Turn} {s t : State} (h : takeTurn u s = .next t) :
    t.device = s.device ∧ t.schedule = s.schedule ∧ ∃ more, t.outputs = s.outputs ++ more := by
  rcases takeTurn_next h with ⟨c, b, ch, -, -, rfl⟩ | ⟨c, ch, -, -, -, rfl⟩ | ⟨c, ch, f, tail, acc, -, -, -, -, rfl⟩ |
    ⟨c, ch, -, -, -, rfl⟩ | ⟨c, ch, b, more, -, -, -, rfl⟩ | ⟨c, ch, -, -, rfl⟩ | ⟨op, w, rs, outs, -, rfl⟩ | ⟨-, rfl⟩
  · exact ⟨rfl, rfl, [], (List.append_nil _).symm⟩
  · exact ⟨rfl, rfl, [], (List.append_nil _).symm⟩
  · exact ⟨rfl, rfl, _, rfl⟩
  · exact ⟨rfl, rfl, [], (List.append_nil _).symm⟩
  · exact ⟨rfl, rfl, _, rfl⟩
  · exact ⟨rfl, rfl, [], (List.append_nil _).symm⟩
  · exact ⟨rfl, rfl, outs, rfl⟩
  · exact ⟨rfl, rfl, [], (List.append_nil _).symm⟩

/-- Settles O44, by cases on whether a turn is left. -/
theorem stepKeepsConfigurationAndUsesUpItsTurn : Obligations.StepKeepsConfigurationAndUsesUpItsTurn := by
  intro s t h
  cases hs : s.schedule with
  | nil =>
    rw [step_idle hs] at h
    cases h
    exact ⟨rfl, hs, [], (List.append_nil _).symm⟩
  | cons u rest =>
    rw [step_turn hs] at h
    exact takeTurn_keeps h

theorem dispatchEnabled_iff (s : State) (c : Nat) :
    s.dispatchEnabled c = true ↔ ∃ ch, s.chans[c]? = some ch ∧ 8 ≤ ch.rxbuf.length ∧ ch.txbuf = [] := by
  unfold State.dispatchEnabled
  cases s.chans[c]? <;> simp

/-- Replacing one channel leaves an enabled dispatch of `c` enabled, if the replacement does so where it is `c` itself. -/
theorem dispatchEnabled_of_set {s t : State} {c d : Nat} {ch ch' : Channel} (he : s.dispatchEnabled c = true)
    (hd : s.chans[d]? = some ch) (ht : t.chans = s.chans.set d ch')
    (hkeep : d = c → 8 ≤ ch.rxbuf.length → ch.txbuf = [] → 8 ≤ ch'.rxbuf.length ∧ ch'.txbuf = []) :
    t.dispatchEnabled c = true := by
  obtain ⟨ch₀, hc, hlen, htx⟩ := (dispatchEnabled_iff s c).mp he
  rw [dispatchEnabled_iff, ht]
  by_cases hdc : d = c
  · subst hdc
    obtain rfl : ch₀ = ch := Option.some.inj (hc.symm.trans hd)
    exact ⟨ch', getElem?_set_chan_self hc ch', hkeep rfl hlen htx⟩
  · exact ⟨ch₀, by rw [List.getElem?_set_ne hdc, hc], hlen, htx⟩

/-- No turn but a channel's own dispatch and clear, and reset, disables the channel's dispatch: a receive only lengthens the
receive buffer, and a transmit finds nothing pending (R17). -/
theorem takeTurn_dispatchEnabled {u : Turn} {s t : State} {c : Nat} (he : s.dispatchEnabled c = true)
    (hdisp : u ≠ .dispatch c) (hclear : u ≠ .clear c) (hreset : u ≠ .reset) (h : takeTurn u s = .next t) :
    t.dispatchEnabled c = true := by
  rcases takeTurn_next h with ⟨d, b, ch, -, hd, rfl⟩ | ⟨d, ch, -, -, -, rfl⟩ | ⟨d, ch, f, tail, acc, rfl, hd, -, -, rfl⟩ |
    ⟨d, ch, -, -, -, rfl⟩ | ⟨d, ch, b, more, -, hd, hpend, rfl⟩ | ⟨d, ch, rfl, hd, rfl⟩ | ⟨op, w, rs, outs, -, rfl⟩ |
    ⟨rfl, -⟩
  · refine dispatchEnabled_of_set he hd rfl fun _ hlen htx => ?_
    split
    · exact ⟨by rw [List.length_append]; omega, htx⟩
    · exact ⟨hlen, htx⟩
  · exact he
  · exact dispatchEnabled_of_set he hd rfl fun hdc => absurd (congrArg Turn.dispatch hdc) hdisp
  · exact he
  · refine dispatchEnabled_of_set he hd rfl fun _ _ htx => ?_
    rw [hpend] at htx
    cases htx
  · exact dispatchEnabled_of_set he hd rfl fun hdc => absurd (congrArg Turn.clear hdc) hclear
  · exact he
  · exact absurd rfl hreset

/-- Settles O50, from what one turn can do to an enabled dispatch. -/
theorem enabledDispatchStaysEnabled : Obligations.EnabledDispatchStaysEnabled := by
  intro s t u rest c hs he hdisp hclear hreset h
  rw [step_turn hs] at h
  exact takeTurn_dispatchEnabled (s := { s with schedule := rest }) he hdisp hclear hreset h

/-! ### Runs of receive turns and of transmit turns -/

/-- A run of one step more begins with that step, on any machine. -/
theorem run_succ_of_step {M : Host.Core} {s t : M.State} (h : M.step s = .next t) (k : Nat) :
    M.run (k + 1) s = M.run k t := by
  simp only [Host.Core.run, h]

/-- Bytes offered one after another are appended in order while there is room for all (R9, R171). -/
theorem run_receive (c : Nat) (rest : List Turn) (bytes : List Byte) (s : State) (ch : Channel)
    (hc : s.chans[c]? = some ch) (hroom : ch.rxbuf.length + bytes.length ≤ s.cfg.rxDepth)
    (hs : s.schedule = bytes.map (Turn.rx c) ++ rest) :
    Sys2Proof.core.run bytes.length s =
      .next { s with schedule := rest, chans := s.chans.set c { ch with rxbuf := ch.rxbuf ++ bytes } } := by
  induction bytes generalizing s ch with
  | nil =>
    have hs' : s.schedule = rest := hs
    subst hs'
    simp only [List.append_nil, set_chan_self hc]
    rfl
  | cons b bytes ih =>
    rw [List.length_cons] at hroom ⊢
    have hroom' : (ch.rxbuf ++ [b]).length + bytes.length ≤ s.cfg.rxDepth := by
      rw [List.length_append, List.length_singleton]
      omega
    rw [run_succ_of_step (M := Sys2Proof.core) (step_rx_of_room hs hc (by omega)),
      ih _ _ (getElem?_set_chan_self hc _) hroom' rfl]
    simp only [List.set_set, List.append_assoc, List.singleton_append]

/-- Settles O51: the turns of the chunks are the turns of their concatenation. -/
theorem receivedBytesKeepTheirOrder : Obligations.ReceivedBytesKeepTheirOrder := by
  intro s c ch chunks rest hc hroom hs
  rw [← List.map_flatten] at hs
  exact run_receive c rest chunks.flatten s ch hc hroom hs

/-- The mark of a byte is that no other follows it (R10). -/
theorem byteOutputs_cons (c : Nat) (b : Byte) (more : List Byte) :
    byteOutputs c (b :: more) = .byte c b more.isEmpty :: byteOutputs c more := by
  cases more <;> rfl

/-- The pending bytes leave in index order, one per transmit turn (R199). -/
theorem run_transmit (c : Nat) (rest : List Turn) (pending : List Byte) (s : State) (ch : Channel)
    (hc : s.chans[c]? = some ch) (ht : ch.txbuf = pending)
    (hs : s.schedule = List.replicate pending.length (.tx c) ++ rest) :
    Sys2Proof.core.run pending.length s =
      .next { s with
        schedule := rest
        chans := s.chans.set c { ch with txbuf := [] }
        outputs := s.outputs ++ byteOutputs c pending } := by
  induction pending generalizing s ch with
  | nil =>
    have hs' : s.schedule = rest := hs
    subst hs'
    have hch : { ch with txbuf := [] } = ch := by rw [← ht]
    simp only [hch, set_chan_self hc, byteOutputs, List.append_nil]
    rfl
  | cons b more ih =>
    rw [List.length_cons, run_succ_of_step (M := Sys2Proof.core) (step_tx_of_pending hs hc ht),
      ih _ _ (getElem?_set_chan_self hc _) rfl rfl, byteOutputs_cons]
    simp only [List.set_set, List.append_assoc, List.singleton_append]

/-- Settles O52, by the run of the transmit turns. -/
theorem pendingBytesLeaveInOrder : Obligations.PendingBytesLeaveInOrder := by
  intro s c ch rest hc hs
  exact run_transmit c rest ch.txbuf s ch hc rfl hs

/-! ### A supported request and its response -/

theorem sentBytes_append (c : Nat) (outs more : List Output) :
    sentBytes c (outs ++ more) = sentBytes c outs ++ sentBytes c more :=
  List.filterMap_append

/-- The outputs of a transmitted response carry its bytes (R50). -/
theorem sentBytes_byteOutputs (c : Nat) (bytes : List Byte) : sentBytes c (byteOutputs c bytes) = bytes := by
  induction bytes with
  | nil => rfl
  | cons b more ih =>
    rw [byteOutputs_cons]
    simp only [sentBytes, List.filterMap_cons, if_true]
    exact congrArg (b :: ·) ih

/-- A diagnostic event is no byte of a channel (R13, R50). -/
theorem sentBytes_frameEvent (c d : Nat) (f : Frame) :
    sentBytes c ((frameEvent f).map fun e => Output.event d e.1 e.2).toList = [] := by
  cases frameEvent f <;> rfl

theorem appendChecksum_ne_nil (s : List Byte) : appendChecksum s ≠ [] := by simp [appendChecksum]

/-- The signatures of R86 are the classes the classifier of R190 tells from unknown. -/
theorem supported_iff_classify (h : Header) :
    h.supported = true ↔ classify h.unitAddress h.functionCode h.start h.qty ≠ .unknown := by
  simp only [Header.supported, Bool.and_eq_true, Bool.or_eq_true, beq_iff_eq]
  unfold classify
  split
  case isTrue hrun => simp [hrun]
  case isFalse hrun =>
    split
    case isTrue hbasic => simp [hbasic]
    case isFalse hbasic =>
      split
      case isTrue hwrite => simp [hwrite]
      case isFalse hwrite =>
        refine iff_of_false ?_ (not_not.mpr rfl)
        rintro ⟨hu, (⟨⟨hf, ha⟩, hq⟩ | ⟨⟨hf, ha⟩, hq⟩) | hf⟩
        · exact hrun ⟨hu, hf, ha, hq⟩
        · exact hbasic ⟨hu, hf, ha, hq⟩
        · exact hwrite ⟨hu, hf⟩

/-- A header of a supported class is not classified as unknown (R86, R190). -/
theorem headerRow_ne_unknown_of_supported {h : Header} (hsup : h.supported = true) : headerRow h ≠ .unknown := by
  rcases headerRow_cases h with ⟨hr, -⟩ | ⟨hr, -⟩ | ⟨hr, -⟩ | ⟨hr, -⟩ | ⟨hr, -⟩ | ⟨-, hk⟩
  on_goal 6 => exact absurd hk ((supported_iff_classify h).mp hsup)
  all_goals simp [hr]

/-- The reference answers every checksum-valid request of a supported class with at least one byte (R191 to R193). -/
theorem frameEffect_response_ne_nil {f : Frame} (cfg : Cfg) (rs : Store) (hv : frameValid f = true)
    (hsup : f.header.supported = true) : (frameEffect cfg rs f).2 ≠ [] := by
  have hcrc : ¬ f.crcRx ≠ crc16 f.body := not_not.mpr ((frameValid_iff f).mp hv)
  have hrow := headerRow_ne_unknown_of_supported hsup
  unfold frameEffect
  rw [if_neg hcrc]
  cases hk : headerRow f.header with
  | readRun | readBasic => exact appendChecksum_ne_nil _
  | writeRegOn | writeRegOff => exact List.ne_nil_of_length_pos (by simp)
  | writeRegIllegal => exact List.cons_ne_nil _ _
  | unknown => exact absurd hk hrow

/-- Settles O54: the dispatch step loads the reference's response, which is not empty, and the transmit turns send it. -/
theorem supportedRequestGetsItsWholeResponse : Obligations.SupportedRequestGetsItsWholeResponse := by
  intro s c ch f tail rest hd hv hsup
  refine ⟨frameEffect_response_ne_nil _ _ hv hsup, ?_⟩
  obtain ⟨acc, hstep⟩ := step_dispatch_of_enabled hd
  obtain ⟨-, hc, -, -⟩ := hd
  have hloaded := afterDispatch_chan
    (s := { s with schedule := List.replicate (frameEffect s.cfg s.rs f).2.length (.tx c) ++ rest }) f tail acc hc
  have hrun := run_transmit c rest (frameEffect s.cfg s.rs f).2 _ _ hloaded rfl rfl
  refine ⟨_, _, (run_succ_of_step (M := Sys2Proof.core) hstep _).trans hrun, rfl, rfl, ?_,
    getElem?_set_chan_self hloaded _, rfl, rfl⟩
  simp only [afterDispatch, sentBytes_append, sentBytes_frameEvent, sentBytes_byteOutputs, List.append_nil]

end Sys2Proof.Machine

/-! PROOFS. The family of the state: the invariant of the buffers at reset and under every step (R20, R30, R31, R38), which
turns write the Register Store and how (R21 to R25, R37, R62), the CRC accumulator (R32, R119), and the device registers as
the two block responses show them (R27, R90, R91). -/

namespace Sys2Proof.Machine

/-! ### The invariant of the buffers -/

section Invariant

variable {s t : State} {c : Nat} {ch ch' : Channel}

theorem Channel.bounded_iff (cfg : Cfg) (ch : Channel) :
    ch.bounded cfg = true ↔ ch.rxbuf.length ≤ cfg.rxDepth ∧ ch.txbuf.length ≤ maxResponse cfg := by
  simp [Channel.bounded]

@[simp] theorem Channel.bounded_empty (cfg : Cfg) : Channel.empty.bounded cfg = true := by
  simp [Channel.bounded_iff]

theorem State.inv_iff (s : State) :
    s.inv = true ↔ s.chans.length = s.cfg.nChan ∧ ∀ ch ∈ s.chans, ch.bounded s.cfg = true := by
  simp [State.inv]

theorem State.bounded_of_inv (hi : s.inv = true) (hc : s.chans[c]? = some ch) :
    ch.rxbuf.length ≤ s.cfg.rxDepth ∧ ch.txbuf.length ≤ maxResponse s.cfg :=
  (Channel.bounded_iff _ _).mp (((State.inv_iff s).mp hi).2 ch (List.mem_of_getElem? hc))

/-- Empty channels in the configured number meet the invariant, whatever else the state holds (R38). -/
theorem State.inv_of_empty_chans (h : t.chans = List.replicate t.cfg.nChan Channel.empty) : t.inv = true := by
  rw [State.inv_iff, h]
  refine ⟨List.length_replicate, fun ch hmem => ?_⟩
  rw [List.eq_of_mem_replicate hmem]
  exact Channel.bounded_empty _

/-- Replacing one channel by one within its bounds keeps the invariant. -/
theorem State.inv_of_set (hi : s.inv = true) (hd : t.device = s.device) (ht : t.chans = s.chans.set c ch')
    (hrx : ch'.rxbuf.length ≤ s.cfg.rxDepth) (htx : ch'.txbuf.length ≤ maxResponse s.cfg) : t.inv = true := by
  obtain ⟨hlen, hall⟩ := (State.inv_iff s).mp hi
  have hcfg : t.cfg = s.cfg := congrArg Device.cfg hd
  rw [State.inv_iff, ht, hcfg, List.length_set]
  refine ⟨hlen, fun x hx => ?_⟩
  rcases List.mem_or_eq_of_mem_set hx with hmem | rfl
  · exact hall x hmem
  · exact (Channel.bounded_iff _ _).mpr ⟨hrx, htx⟩

/-- No response is longer than `MAXRESP`: the two block responses are as long as their templates, an acknowledgment's body
has six bytes, the exception frame is shorter, and silence is empty (R31). -/
theorem length_frameEffect_le (cfg : Cfg) (rs : Store) (f : Frame) :
    (frameEffect cfg rs f).2.length ≤ maxResponse cfg := by
  unfold frameEffect maxResponse
  split
  · exact Nat.zero_le _
  · cases headerRow f.header with
    | readRun => simp [runResponse]
    | readBasic => simp [basicResponse]
    | writeRegOn | writeRegOff => simp
    | writeRegIllegal => simp
    | unknown => exact Nat.zero_le _

/-- Every turn keeps the invariant: a receive appends only below `RXDEPTH`, a dispatch loads one response, and every other
turn leaves the buffers alone or shortens them (R30, R31). -/
theorem takeTurn_inv {u : Turn} (hi : s.inv = true) (h : takeTurn u s = .next t) : t.inv = true := by
  rcases takeTurn_next h with ⟨c, b, ch, -, hc, rfl⟩ | ⟨c, ch, -, -, -, rfl⟩ | ⟨c, ch, f, tail, acc, -, hc, hr, -, rfl⟩ |
    ⟨c, ch, -, -, -, rfl⟩ | ⟨c, ch, b, more, -, hc, ht, rfl⟩ | ⟨c, ch, -, -, rfl⟩ | ⟨op, w, rs, outs, -, rfl⟩ | ⟨-, rfl⟩
  · obtain ⟨hrx, htx⟩ := State.bounded_of_inv hi hc
    refine State.inv_of_set hi rfl rfl ?_ ?_
    · split
      case isTrue hroom => simpa using hroom
      case isFalse => exact hrx
    · split <;> exact htx
  · exact hi
  · obtain ⟨hrx, -⟩ := State.bounded_of_inv hi hc
    refine State.inv_of_set hi rfl rfl ?_ (length_frameEffect_le _ _ f)
    rw [hr, List.length_append] at hrx
    exact (Nat.le_add_left _ _).trans hrx
  · exact hi
  · obtain ⟨hrx, htx⟩ := State.bounded_of_inv hi hc
    refine State.inv_of_set hi rfl rfl hrx ?_
    rw [ht] at htx
    exact (Nat.le_succ _).trans htx
  · exact State.inv_of_set hi rfl rfl (Nat.zero_le _) (Nat.zero_le _)
  · exact hi
  · exact State.inv_of_empty_chans rfl

end Invariant

/-- Settles O43, by cases on whether a turn is left. -/
theorem everyStepKeepsTheInvariant : Obligations.EveryStepKeepsTheInvariant := by
  intro s t hi h
  cases hs : s.schedule with
  | nil =>
    rw [step_idle hs] at h
    cases h
    exact hi
  | cons u rest =>
    rw [step_turn hs] at h
    exact takeTurn_inv (s := { s with schedule := rest }) hi h

/-- Settles O42: every channel is empty. -/
theorem resetMeetsTheInvariant : Obligations.ResetMeetsTheInvariant := State.inv_of_empty_chans rfl

/-- Settles O41, from the fields of the state after reset. -/
theorem powerOnStateIsConfigured : Obligations.PowerOnStateIsConfigured := by
  refine ⟨rfl, rfl, rfl, rfl, rfl, fun c hc => ?_, List.length_replicate, rfl, rfl⟩
  exact ⟨Channel.empty, List.getElem?_replicate_of_lt hc, Channel.empty_rxbuf, Channel.empty_txbuf⟩

/-! ### Who writes the Register Store -/

/-- What a frame does to the store: a checksum-valid write request to a threshold's register sets that threshold to its value,
and every other frame leaves the store as it is (R62, R207, R210). -/
theorem frameEffect_store (cfg : Cfg) (rs : Store) (f : Frame) :
    (frameEffect cfg rs f).1 = rs ∨
    (∃ v, frameValid f = true ∧ f.header = .write Const.regOnThr v ∧ (frameEffect cfg rs f).1 = rs.setOnThreshold v) ∨
    (∃ v, frameValid f = true ∧ f.header = .write Const.regOffThr v ∧ (frameEffect cfg rs f).1 = rs.setOffThreshold v) := by
  by_cases hcrc : f.crcRx = crc16 f.body
  · have hv : frameValid f = true := (frameValid_iff f).mpr hcrc
    have hne : ¬ f.crcRx ≠ crc16 f.body := not_not.mpr hcrc
    unfold frameEffect
    rw [if_neg hne]
    rcases headerRow_cases f.header with ⟨hr, -⟩ | ⟨hr, -⟩ | ⟨hr, hh⟩ | ⟨hr, hh⟩ | ⟨hr, -⟩ | ⟨hr, -⟩ <;> rw [hr]
    · exact .inl rfl
    · exact .inl rfl
    · exact .inr (.inl ⟨_, hv, hh, rfl⟩)
    · exact .inr (.inr ⟨_, hv, hh, rfl⟩)
    · exact .inl rfl
    · exact .inl rfl
  · exact .inl (by unfold frameEffect; rw [if_pos hcrc])

/-- A step of no host turn and no reset keeps the store, unless it dispatches a frame, whose effect the reference gives
(R37, R185). -/
theorem step_rs_of_wire {s t : State} {u : Turn} {rest : List Turn} (hs : s.schedule = u :: rest)
    (hhost : ∀ op w, u ≠ .host op w) (hreset : u ≠ .reset) (h : step s = .next t) :
    t.rs = s.rs ∨
    ∃ c ch f tail, u = .dispatch c ∧ dispatches s c ch f tail rest ∧ t.rs = (frameEffect s.cfg s.rs f).1 := by
  rw [step_turn hs] at h
  rcases takeTurn_next h with ⟨c, b, ch, -, -, rfl⟩ | ⟨c, ch, -, -, -, rfl⟩ | ⟨c, ch, f, tail, acc, rfl, hc, hr, ht, rfl⟩ |
    ⟨c, ch, -, -, -, rfl⟩ | ⟨c, ch, b, more, -, -, -, rfl⟩ | ⟨c, ch, -, -, rfl⟩ | ⟨op, w, rs, outs, hu, -⟩ | ⟨hu, -⟩
  · exact .inl rfl
  · exact .inl rfl
  · exact .inr ⟨c, ch, f, tail, rfl, ⟨hs, hc, hr, ht⟩, rfl⟩
  · exact .inl rfl
  · exact .inl rfl
  · exact .inl rfl
  · exact absurd hu (hhost op w)
  · exact absurd hu hreset

/-- Settles O47: of the three effects a frame can have on the store, only the write to its own register changes a threshold. -/
theorem onlyItsOwnWriteRequestChangesAThreshold : Obligations.OnlyItsOwnWriteRequestChangesAThreshold := by
  intro s t u rest hs hhost hreset h
  rcases step_rs_of_wire hs hhost hreset h with hrs | ⟨c, ch, f, tail, hu, hd, hrs⟩
  · exact ⟨fun hne => absurd (congrArg _ hrs) hne, fun hne => absurd (congrArg _ hrs) hne⟩
  · rcases frameEffect_store s.cfg s.rs f with he | ⟨v, hv, hh, he⟩ | ⟨v, hv, hh, he⟩ <;> rw [hrs, he]
    · exact ⟨fun hne => absurd rfl hne, fun hne => absurd rfl hne⟩
    · exact ⟨fun _ => ⟨c, ch, f, tail, hu, hd, hv, hh⟩, fun hne => absurd rfl hne⟩
    · exact ⟨fun hne => absurd rfl hne, fun _ => ⟨c, ch, f, tail, hu, hd, hv, hh⟩⟩

/-- Settles O46: a frame can set a threshold and no other field of the store. -/
theorem wireNeverWritesHostFields : Obligations.WireNeverWritesHostFields := by
  intro s t u rest hs hhost hreset h
  rcases step_rs_of_wire hs hhost hreset h with hrs | ⟨c, ch, f, tail, -, -, hrs⟩
  · rw [hrs]; exact ⟨rfl, rfl, rfl⟩
  · rcases frameEffect_store s.cfg s.rs f with he | ⟨v, -, -, he⟩ | ⟨v, -, -, he⟩ <;> rw [hrs, he]
    all_goals exact ⟨rfl, rfl, rfl⟩

/-! ### The CRC accumulator -/

/-- Settles O10: CLEAR and one UPDATE per byte are a checksum computation, which writes the accumulator only. -/
theorem accumulatorComputesTheChecksum : Obligations.AccumulatorComputesTheChecksum := by
  intro ch a b
  have hrun : (a ++ b).foldl Channel.crcUpdate ch.crcClear = { ch with crc := crc16 (a ++ b) } :=
    ch.checksum_eq (a ++ b)
  rw [hrun]
  exact ⟨crc16_append a b, rfl, rfl, rfl⟩

/-! ### Reading a slot of a patched block -/

section Slots

variable {hdr : Nat} {blk : Block} {a b : Word}

theorem read16_write16_self {bytes : List Byte} {o : Nat} (v : Word) (ho : o + 1 < bytes.length) :
    read16 (write16 bytes o v) o = v := by
  simp [read16, write16, List.getD, ho, show o < bytes.length by omega]

/-- A write leaves a slot it does not overlap as it was. -/
theorem read16_write16_disjoint {o o' : Nat} (bytes : List Byte) (v : Word) (h : o' + 2 ≤ o ∨ o + 2 ≤ o') :
    read16 (write16 bytes o' v) o = read16 bytes o := by
  have keep : ∀ k, k ≠ o' → k ≠ o' + 1 → (write16 bytes o' v).getD k 0 = bytes.getD k 0 := by
    intro k h0 h1
    simp [write16, List.getD, List.getElem?_set_ne h0.symm, List.getElem?_set_ne h1.symm]
  rw [read16, read16, keep o (by omega) (by omega), keep (o + 1) (by omega) (by omega)]

/-- What follows a block, such as its checksum, is no part of its slots. -/
theorem read16_append {bytes : List Byte} {o : Nat} (more : List Byte) (ho : o + 1 < bytes.length) :
    read16 (bytes ++ more) o = read16 bytes o := by
  simp [read16, List.getD, List.getElem?_append_left ho, List.getElem?_append_left (show o < bytes.length by omega)]

/-- The slot of an address shows a patch of that address, and keeps its value under a patch of another (R152). -/
theorem read16_patch {resp : List Byte} (v : Word) (hlen : resp.length = hdr + 2 * blk.nregs)
    (hlo : blk.base.toNat ≤ a.toNat) (hhi : a.toNat < blk.base.toNat + blk.nregs) :
    read16 (patch hdr blk resp b v) (slotOffset hdr (a.toNat - blk.base.toNat)) =
      if b = a then v else read16 resp (slotOffset hdr (a.toNat - blk.base.toNat)) := by
  by_cases hba : b = a
  · subst hba
    rw [if_pos rfl, patch_of_mem resp v hlo hhi, read16_write16_self]
    unfold slotOffset
    omega
  · have hne : b.toNat ≠ a.toNat := fun e => hba (BitVec.eq_of_toNat_eq e)
    rw [if_neg hba]
    rcases patch_cases hdr blk resp b v with h | ⟨hb, -, h⟩ <;> rw [h]
    apply read16_write16_disjoint
    unfold slotOffset
    omega

/-- The value a patch list leaves for an address whose template value is `v₀`: the last patch of that address stands (R157). -/
def patchedValue (a v₀ : Word) (patches : List (Word × Word)) : Word :=
  patches.foldl (fun v p => if p.1 = a then p.2 else v) v₀

theorem read16_foldl_patch (patches : List (Word × Word)) {resp : List Byte} (hlen : resp.length = hdr + 2 * blk.nregs)
    (hlo : blk.base.toNat ≤ a.toNat) (hhi : a.toNat < blk.base.toNat + blk.nregs) :
    read16 (patches.foldl (fun r p => patch hdr blk r p.1 p.2) resp) (slotOffset hdr (a.toNat - blk.base.toNat)) =
      patchedValue a (read16 resp (slotOffset hdr (a.toNat - blk.base.toNat))) patches := by
  induction patches generalizing resp with
  | nil => rfl
  | cons p patches ih =>
    rw [List.foldl_cons, ih ((length_patch ..).trans hlen), read16_patch p.2 hlen hlo hhi]
    rfl

/-- The slot of every address of a block shows, in the response, the patched value of the template's (R150, R152). -/
theorem read16_buildResponse (patches : List (Word × Word)) (hlen : blk.tpl.length = hdr + 2 * blk.nregs)
    (hlo : blk.base.toNat ≤ a.toNat) (hhi : a.toNat < blk.base.toNat + blk.nregs) :
    read16 (buildResponse hdr blk patches) (slotOffset hdr (a.toNat - blk.base.toNat)) =
      patchedValue a (read16 blk.tpl (slotOffset hdr (a.toNat - blk.base.toNat))) patches := by
  have hslot : slotOffset hdr (a.toNat - blk.base.toNat) + 1 < (patchAll hdr blk patches).length := by
    rw [length_patchAll, hlen]
    unfold slotOffset
    omega
  rw [buildResponse, appendChecksum, read16_append _ hslot]
  exact read16_foldl_patch patches hlen hlo hhi

end Slots

/-- A register of the run block is what the four live patches leave of the template's value (R27, R154). -/
theorem runRegister_eq_some {cfg : Cfg} {rs : Store} {a v : Word} (h : runRegister cfg rs a = some v) :
    Const.baseRun.toNat ≤ a.toNat ∧ a.toNat < Const.baseRun.toNat + cfg.nRegsRun ∧
    patchedValue a (read16 cfg.tplRun (slotOffset cfg.hdrSize (a.toNat - Const.baseRun.toNat))) (runPatches cfg rs) = v := by
  unfold runRegister at h
  split at h
  case isTrue hmem =>
    refine ⟨hmem.1, hmem.2, (Option.some.inj h).symm ▸ ?_⟩
    simp only [patchedValue, runPatches, List.foldl_cons, List.foldl_nil, eq_comm (a := a)]
    by_cases hpv : Const.regPvVolt = a
    · subst hpv; rfl
    · rw [if_neg hpv, if_neg hpv]
  case isFalse => cases h

/-- A register of the basic block is what the two threshold patches leave of the template's value (R27, R155). -/
theorem basicRegister_eq_some {cfg : Cfg} {rs : Store} {a v : Word} (h : basicRegister cfg rs a = some v) :
    Const.baseBasic.toNat ≤ a.toNat ∧ a.toNat < Const.baseBasic.toNat + cfg.nRegsBasic ∧
    patchedValue a (read16 cfg.tplBasic (slotOffset cfg.hdrSize (a.toNat - Const.baseBasic.toNat))) (basicPatches rs) = v := by
  unfold basicRegister at h
  split at h
  case isTrue hmem =>
    refine ⟨hmem.1, hmem.2, (Option.some.inj h).symm ▸ ?_⟩
    simp only [patchedValue, basicPatches, List.foldl_cons, List.foldl_nil, eq_comm (a := a)]
    by_cases hon : Const.regOnThr = a
    · subst hon; rfl
    · rw [if_neg hon, if_neg hon]
  case isFalse => cases h

/-- Settles O19: both sides are what the block's patch list leaves of the template's value. -/
theorem responseSlotsShowTheDeviceRegisters : Obligations.ResponseSlotsShowTheDeviceRegisters := by
  intro d rs a v
  obtain ⟨-, -, -, hrun, hbasic, -, -⟩ := d.facts
  constructor
  · intro h
    obtain ⟨hlo, hhi, hv⟩ := runRegister_eq_some h
    exact (read16_buildResponse (blk := runBlock d.cfg) _ hrun hlo hhi).trans hv
  · intro h
    obtain ⟨hlo, hhi, hv⟩ := basicRegister_eq_some h
    exact (read16_buildResponse (blk := basicBlock d.cfg) _ hbasic hlo hhi).trans hv

end Sys2Proof.Machine

/-! PROOFS. The family of the memory: what a turn leaves of other channels and of a pending response (R64, R71, R232), reception
running ahead of dispatch (R177), accepted writes of a threshold, racing and repeated (R60, R66, R67, R213), and a channel as a
machine on byte streams (R57, R65, R170). -/

namespace Sys2Proof.Machine

/-- Settles O29, from the meaning of the operation: a store is its five fields. -/
theorem statusReturnsTheSnapshot : Obligations.StatusReturnsTheSnapshot := fun _ => rfl

/-! ### Isolation of the channels -/

/-- A turn that is not reset leaves every channel but its own as it was (R64, R232). -/
theorem takeTurn_other_channel {u : Turn} {s t : State} {d : Nat} (hreset : u ≠ .reset) (hd : u.channel ≠ some d)
    (h : takeTurn u s = .next t) : t.chans[d]? = s.chans[d]? := by
  have set_other : ∀ {c : Nat} (ch : Channel), u.channel = some c → (s.chans.set c ch)[d]? = s.chans[d]? :=
    fun ch hu => List.getElem?_set_ne fun hcd => hd (hu.trans (congrArg some hcd))
  rcases takeTurn_next h with ⟨c, b, ch, rfl, -, rfl⟩ | ⟨c, ch, -, -, -, rfl⟩ | ⟨c, ch, f, tail, acc, rfl, -, -, -, rfl⟩ |
    ⟨c, ch, -, -, -, rfl⟩ | ⟨c, ch, b, more, rfl, -, -, rfl⟩ | ⟨c, ch, rfl, -, rfl⟩ | ⟨op, w, rs, outs, -, rfl⟩ | ⟨hu, -⟩
  · exact set_other _ rfl
  · rfl
  · exact set_other _ rfl
  · rfl
  · exact set_other _ rfl
  · exact set_other _ rfl
  · rfl
  · exact absurd hu hreset

/-- Settles O48, from what a turn can do to a channel that is not its own. -/
theorem channelsAreIsolated : Obligations.ChannelsAreIsolated := by
  intro s t u rest d hs hreset hd h
  rw [step_turn hs] at h
  exact takeTurn_other_channel (s := { s with schedule := rest }) hreset hd h

/-- Settles O49: of the channel's own turns a receive writes the receive buffer only, and a dispatch waits for the pending
response (R198). -/
theorem pendingResponseIsASnapshot : Obligations.PendingResponseIsASnapshot := by
  intro s t u rest c ch hs hc hpend htx hclear hreset h
  by_cases hu : u.channel = some c
  · cases u with
    | rx d b =>
      cases hu
      by_cases hroom : ch.rxbuf.length < s.cfg.rxDepth
      · cases (step_rx_of_room hs hc hroom).symm.trans h
        exact ⟨_, getElem?_set_chan_self hc _, rfl⟩
      · cases (step_rx_of_full hs hc (Nat.not_lt.mp hroom)).symm.trans h
        exact ⟨ch, hc, rfl⟩
    | dispatch d =>
      cases hu
      cases (step_dispatch_of_waiting hs hc (.inr hpend)).symm.trans h
      exact ⟨ch, hc, rfl⟩
    | tx d => cases hu; exact absurd rfl htx
    | clear d => cases hu; exact absurd rfl hclear
    | host op w => cases hu
    | reset => cases hu
  · exact ⟨ch, (channelsAreIsolated s t u rest c hs hreset hu h).trans hc, rfl⟩

/-! ### Reception running ahead of dispatch -/

/-- The channel with one byte more received (R171). -/
def Channel.push (b : Byte) (ch : Channel) : Channel := { ch with rxbuf := ch.rxbuf ++ [b] }

/-- The state in which channel `c` has received byte `b` as well and `turns` are the turns still to come. -/
def State.ahead (s : State) (c : Nat) (b : Byte) (turns : List Turn) : State :=
  { s with schedule := turns, chans := s.chans.modify c (Channel.push b) }

section Ahead

variable {s t : State} {c d : Nat} {b : Byte} {rest turns : List Turn}

theorem State.ahead_eq_set {ch : Channel} (b : Byte) (turns : List Turn) (hc : s.chans[c]? = some ch) :
    s.ahead c b turns = { s with schedule := turns, chans := s.chans.set c (ch.push b) } := by
  rw [State.ahead, List.modify_eq_set_getElem?, hc]
  rfl

/-- A receive turn with room is one byte more. -/
theorem step_rx_eq_ahead {ch : Channel} (hs : s.schedule = .rx c b :: rest) (hc : s.chans[c]? = some ch)
    (hroom : ch.rxbuf.length < s.cfg.rxDepth) : step s = .next (s.ahead c b rest) := by
  rw [State.ahead_eq_set b rest hc]
  exact step_rx_of_room hs hc hroom

/-- An operation on a channel that does not read the receive buffer's end does the same after one byte more. -/
theorem State.onChannel_ahead {f : Channel → Channel} (turns : List Turn) (hf : ∀ ch, f (ch.push b) = (f ch).push b)
    (h : s.onChannel d f = .next t) : (s.ahead c b turns).onChannel d f = .next (t.ahead c b turns) := by
  obtain ⟨ch, hd, rfl⟩ := State.onChannel_next h
  by_cases hcd : c = d
  · subst hcd
    have hpushed : (s.ahead c b turns).chans[c]? = some (ch.push b) := by simp [State.ahead, hd]
    rw [State.onChannel_eq f hpushed, hf, State.ahead_eq_set b turns hd,
      State.ahead_eq_set b turns (getElem?_set_chan_self hd (f ch))]
    simp only [List.set_set]
  · have hother : (s.ahead c b turns).chans[d]? = some ch := by simp [State.ahead, hcd, hd]
    rw [State.onChannel_eq f hother]
    have hcomm : (s.chans.modify c (Channel.push b)).set d (f ch) =
        (s.chans.set d (f ch)).modify c (Channel.push b) := by
      apply List.ext_getElem?
      intro k
      by_cases hk : d = k
      · subst hk
        simp [List.getElem?_set, hcd]
      · simp [hk, List.getElem?_modify]
    rw [State.ahead, hcomm]
    rfl

theorem State.respond_ahead {body : List Byte} (turns : List Turn) (h : s.respond d body = .next t) :
    (s.ahead c b turns).respond d body = .next (t.ahead c b turns) :=
  State.onChannel_ahead turns (fun ch => by simp only [Channel.load_eq, Channel.push]) h

theorem State.drop_ahead {kind : DiagKind} {f : Frame} (turns : List Turn) (h : s.drop d kind f = .next t) :
    (s.ahead c b turns).drop d kind f = .next (t.ahead c b turns) := by
  obtain ⟨⟨ch, hd⟩, rfl⟩ := State.drop_next h
  have hsome : ∃ ch', (s.ahead c b turns).chans[d]? = some ch' := by simp [State.ahead, List.getElem?_modify, hd]
  obtain ⟨ch', hd'⟩ := hsome
  exact State.drop_eq kind f hd'

/-- The class row by the address itself, which the header of the request only carries (R193, R206). -/
theorem exec_writeReg (d : Nat) (a v : Word) (s : State) :
    exec (.writeReg d a v) s =
      if a = Const.regOnThr then (s.withStore (s.rs.setOnThreshold v)).respond d (Header.write a v).bytes
      else if a = Const.regOffThr then (s.withStore (s.rs.setOffThreshold v)).respond d (Header.write a v).bytes
      else s.raiseIllegalDataAddress d (Header.write a v) := by
  change execWriteReg d a v s = _
  simp only [execWriteReg, Header.start_write, Header.qty_write, clamp16_wordInt]

/-- No instruction reads a receive buffer or the turns still to come: after one byte more it does the same (R177). -/
theorem exec_ahead {i : Instr} (turns : List Turn) (h : exec i s = .next t) :
    exec i (s.ahead c b turns) = .next (t.ahead c b turns) := by
  cases i with
  | readRun d | readBasic d | respRun d | respBasic d | respException d => exact State.respond_ahead turns h
  | respAck d h' => exact State.respond_ahead turns h
  | writeRegOn d v =>
    exact State.respond_ahead (s := s.withStore (s.rs.setOnThreshold (clamp16 (wordInt v)))) turns h
  | writeRegOff d v =>
    exact State.respond_ahead (s := s.withStore (s.rs.setOffThreshold (clamp16 (wordInt v)))) turns h
  | writeRegIllegal d a v => exact State.respond_ahead (s := s.emit _) turns h
  | writeReg d a v =>
    rw [exec_writeReg] at h ⊢
    split_ifs at h ⊢
    · exact State.respond_ahead (s := s.withStore (s.rs.setOnThreshold v)) turns h
    · exact State.respond_ahead (s := s.withStore (s.rs.setOffThreshold v)) turns h
    · exact State.respond_ahead (s := s.emit _) turns h
  | unknown d h' => exact State.drop_ahead turns h
  | crcError d f => exact State.drop_ahead turns h
  | hstatus | hreserved6 | hreserved7 => cases h; rfl
  | hsetMode m => cases h; rfl
  | hsetAc a => cases h; rfl
  | hsetBat v | hsetOn v | hsetOff v => cases h; rfl

end Ahead

/-- An enabled dispatch step is the instruction of the frame, run on the state without the frame (R185, R186). -/
theorem step_dispatch_eq_exec {s : State} {c : Nat} {ch : Channel} {f : Frame} {tail : List Byte} {rest : List Turn}
    (hd : dispatches s c ch f tail rest) :
    step s = exec (decodeFrame c f)
      { s with schedule := rest, chans := s.chans.set c { ch with rxbuf := tail, crc := crc16 f.body } } := by
  obtain ⟨hs, hc, hr, ht⟩ := hd
  exact (step_turn hs).trans (dispatchTurn_frame (s := { s with schedule := rest }) hc hr ht)

/-- The instruction of a frame completes, and leaves the receive buffer to the transport (R65). -/
theorem exec_decodeFrame_keeps_rxbuf {s : State} {c : Nat} {ch : Channel} (f : Frame) (hc : s.chans[c]? = some ch) :
    ∃ t ch', exec (decodeFrame c f) s = .next t ∧ t.device = s.device ∧ t.schedule = s.schedule ∧
      t.chans[c]? = some ch' ∧ ch'.rxbuf = ch.rxbuf := by
  obtain ⟨acc, hexec⟩ := exec_decodeFrame f hc
  exact ⟨_, _, hexec, rfl, rfl, getElem?_set_chan_self hc _, rfl⟩

/-- A run of two steps. -/
theorem run_two_of_steps {s t u : State} (h₁ : step s = .next t) (h₂ : step t = .next u) :
    Sys2Proof.core.run 2 s = .next u := by
  rw [run_succ_of_step (M := Sys2Proof.core) h₁, run_succ_of_step (M := Sys2Proof.core) h₂]
  rfl

/-- Settles O53: the dispatch takes the same frame before and after the byte comes, since it is at the head of the buffer, and
its instruction does the same after one byte more. -/
theorem receiveAndDispatchCommute : Obligations.ReceiveAndDispatchCommute := by
  intro s c ch b rest hc hlen hroom htx
  obtain ⟨f, hr⟩ := exists_frame_of_length hlen
  generalize ch.rxbuf.drop 8 = tail at hr
  have hr' : ch.rxbuf ++ [b] = f.bytes ++ (tail ++ [b]) := by rw [hr, List.append_assoc]
  have hroom' : tail.length < s.cfg.rxDepth := by
    rw [hr, List.length_append] at hroom
    omega
  have hfetched := getElem?_set_chan_self hc { ch with rxbuf := tail, crc := crc16 f.body }
  obtain ⟨t, ch', hexec, hdev, hst, hct, hrx⟩ := exec_decodeFrame_keeps_rxbuf
    (s := { s with
      schedule := .rx c b :: rest
      chans := s.chans.set c { ch with rxbuf := tail, crc := crc16 f.body } }) f hfetched
  have hahead := exec_ahead (c := c) (b := b) rest hexec
  rw [State.ahead_eq_set b rest hfetched] at hahead
  refine ⟨t.ahead c b rest, ?_, ?_⟩
  · refine run_two_of_steps (step_rx_of_room rfl hc hroom) ?_
    rw [step_dispatch_eq_exec (ch := { ch with rxbuf := ch.rxbuf ++ [b] }) ⟨rfl, getElem?_set_chan_self hc _, hr', htx⟩]
    simpa only [List.set_set, Channel.push] using hahead
  · refine run_two_of_steps (t := t) ?_ (step_rx_eq_ahead hst hct ?_)
    · exact (step_dispatch_eq_exec (s := { s with schedule := .dispatch c :: .rx c b :: rest })
        ⟨rfl, hc, hr, htx⟩).trans hexec
    · rw [hrx, State.cfg, hdev]
      exact hroom'

/-! ### Accepted writes of a threshold -/

/-- The store after an accepted write of `v` to register `a` (R207, R210). -/
def Store.setThreshold (rs : Store) (a v : Word) : Store :=
  if a = Const.regOnThr then rs.setOnThreshold v else rs.setOffThreshold v

theorem Store.setThreshold_regOnThr (rs : Store) (v : Word) :
    rs.setThreshold Const.regOnThr v = rs.setOnThreshold v := rfl
theorem Store.setThreshold_regOffThr (rs : Store) (v : Word) :
    rs.setThreshold Const.regOffThr v = rs.setOffThreshold v := rfl

/-- Of two writes of one register the later stands (R66). -/
@[simp] theorem Store.setThreshold_setThreshold (rs : Store) (a v w : Word) :
    (rs.setThreshold a v).setThreshold a w = rs.setThreshold a w := by
  unfold Store.setThreshold
  split <;> rfl

/-- The instruction is an accepted write of `v` to register `a` on channel `c`: the sub-row of a threshold's register or the
class row at that register (R62, R87, R206). -/
def Instr.acceptedWrite (i : Instr) (c : Nat) (a v : Word) : Prop :=
  (a = Const.regOnThr ∧ (i = .writeRegOn c v ∨ i = .writeReg c a v)) ∨
  (a = Const.regOffThr ∧ (i = .writeRegOff c v ∨ i = .writeReg c a v))

/-- An accepted write sets its threshold and is answered by its echo (R207, R210, R211). -/
theorem exec_acceptedWrite {i : Instr} {c : Nat} {a v : Word} (hi : Instr.acceptedWrite i c a v) (s : State) :
    exec i s = (s.withStore (s.rs.setThreshold a v)).respond c (Header.write a v).bytes := by
  rcases hi with ⟨rfl, rfl | rfl⟩ | ⟨rfl, rfl | rfl⟩
  · change execWriteRegOn c v s = _
    rw [execWriteRegOn, clamp16_wordInt, Store.setThreshold_regOnThr]
  · rw [exec_writeReg, if_pos rfl, Store.setThreshold_regOnThr]
  · change execWriteRegOff c v s = _
    rw [execWriteRegOff, clamp16_wordInt, Store.setThreshold_regOffThr]
  · rw [exec_writeReg, if_neg (by decide), if_pos rfl, Store.setThreshold_regOffThr]

/-- An accepted write completes on every channel the device has; its threshold alone changes in the store. -/
theorem exec_acceptedWrite_completes {i : Instr} {c : Nat} {a v : Word} {s : State} (hi : Instr.acceptedWrite i c a v)
    (hc : c < s.chans.length) :
    ∃ t, exec i s = .next t ∧ t.rs = s.rs.setThreshold a v ∧ t.device = s.device ∧ t.chans.length = s.chans.length := by
  refine ⟨_, (exec_acceptedWrite hi s).trans (State.respond_eq _ (List.getElem?_eq_getElem hc)), rfl, rfl, ?_⟩
  exact List.length_set

/-- Two accepted writes, one after the other, on any two channels. -/
theorem exec_two_acceptedWrites {i j : Instr} {c d : Nat} {a b v w : Word} {s : State} (hi : Instr.acceptedWrite i c a v)
    (hj : Instr.acceptedWrite j d b w) (hc : c < s.chans.length) (hd : d < s.chans.length) :
    ∃ t₁ t₂, exec i s = .next t₁ ∧ exec j t₁ = .next t₂ ∧ t₂.rs = (s.rs.setThreshold a v).setThreshold b w ∧
      t₂.device = s.device ∧ t₂.chans.length = s.chans.length := by
  obtain ⟨t₁, h₁, hrs₁, hdev₁, hlen₁⟩ := exec_acceptedWrite_completes hi hc
  obtain ⟨t₂, h₂, hrs₂, hdev₂, hlen₂⟩ := exec_acceptedWrite_completes (s := t₁) hj (hlen₁.symm ▸ hd)
  exact ⟨t₁, t₂, h₁, h₂, hrs₂.trans (hrs₁ ▸ rfl), hdev₂.trans hdev₁, hlen₂.trans hlen₁⟩

/-- The two threshold slots of the basic response show the store (R91, R155). -/
theorem basicResponse_shows_thresholds (d : Device) (rs : Store) :
    read16 (basicResponse d.cfg rs) (d.cfg.hdrSize + 38) = rs.onThreshold ∧
    read16 (basicResponse d.cfg rs) (d.cfg.hdrSize + 40) = rs.offThreshold := by
  obtain ⟨-, -, -, -, -, -, hregs⟩ := d.facts
  have hbase : Const.baseBasic.toNat = 4132 := rfl
  have hon : basicRegister d.cfg rs Const.regOnThr = some rs.onThreshold := by
    have haddr : Const.regOnThr.toNat = 4151 := rfl
    rw [basicRegister, if_pos (by omega), if_pos rfl]
  have hoff : basicRegister d.cfg rs Const.regOffThr = some rs.offThreshold := by
    have haddr : Const.regOffThr.toNat = 4152 := rfl
    rw [basicRegister, if_pos (by omega), if_neg (by decide), if_pos rfl]
  exact ⟨by simpa using (responseSlotsShowTheDeviceRegisters d rs Const.regOnThr _).2 hon,
    by simpa using (responseSlotsShowTheDeviceRegisters d rs Const.regOffThr _).2 hoff⟩

/-- Settles O56: in either order the two writes leave both values in the store, and the basic response shows them. -/
theorem laterReadSeesBothWrites : Obligations.LaterReadSeesBothWrites := by
  intro s c d e v w on off first second hc hd he hon hoff horder
  have haccOn : Instr.acceptedWrite on c Const.regOnThr v := .inl ⟨rfl, hon⟩
  have haccOff : Instr.acceptedWrite off d Const.regOffThr w := .inr ⟨rfl, hoff⟩
  have hwrites : ∃ t₁ t₂, exec first s = .next t₁ ∧ exec second t₁ = .next t₂ ∧
      t₂.rs = (s.rs.setOnThreshold v).setOffThreshold w ∧ t₂.device = s.device ∧ t₂.chans.length = s.chans.length := by
    rcases horder with ⟨rfl, rfl⟩ | ⟨rfl, rfl⟩
    · exact exec_two_acceptedWrites haccOn haccOff hc hd
    · exact exec_two_acceptedWrites haccOff haccOn hd hc
  obtain ⟨t₁, t₂, h₁, h₂, hrs, hdev, hlen⟩ := hwrites
  have he₂ : t₂.chans[e]? = some t₂.chans[e] := List.getElem?_eq_getElem (hlen.symm ▸ he)
  have hcfg : s.cfg = t₂.cfg := congrArg Device.cfg hdev.symm
  have hv : t₂.rs.onThreshold = v := by rw [hrs]; rfl
  have hw : t₂.rs.offThreshold = w := by rw [hrs]; rfl
  obtain ⟨hshowOn, hshowOff⟩ := basicResponse_shows_thresholds t₂.device t₂.rs
  refine ⟨t₁, t₂, _, _, h₁, h₂, State.respond_eq (s := t₂) _ he₂, getElem?_set_chan_self he₂ _, ?_⟩
  rw [hcfg]
  exact ⟨hshowOn.trans hv, hshowOff.trans hw⟩

/-- The frame of a header is valid: its checksum is the fresh one (R114, R116). -/
theorem frameValid_frameOf (h : Header) : frameValid (frameOf h) = true := by
  rw [frameValid_iff]
  exact be16_hi8_lo8 _

/-- The request frame of a write to a writable register decodes to an accepted write (R84, R87). -/
theorem decodeFrame_write {a : Word} (c : Nat) (v : Word) (ha : a = Const.regOnThr ∨ a = Const.regOffThr) :
    Instr.acceptedWrite (decodeFrame c (frameOf (.write a v))) c a v := by
  have hclass : classify (Header.write a v).unitAddress (Header.write a v).functionCode (Header.write a v).start
      (Header.write a v).qty = .writeReg := (classify_eq_writeReg_iff ..).mpr ⟨rfl, rfl⟩
  rw [decodeFrame, if_pos (frameValid_frameOf _), frameOf_header, decodeHeader, headerRow, hclass]
  rcases ha with rfl | rfl
  · exact .inl ⟨rfl, .inl (by simp)⟩
  · exact .inr ⟨rfl, .inl (by simp)⟩

/-- A channel after the dispatch of its one frame, a write of `v` to register `a`: the echo is pending. -/
def Channel.acknowledging (a v : Word) : Channel :=
  ⟨[], (frameOf (.write a v)).bytes, crc16 (Header.write a v).bytes⟩

/-- The dispatch of an accepted write, the only frame its channel holds (R186, R206). -/
theorem step_dispatch_write {s : State} {c : Nat} {ch : Channel} {a v : Word} {rest : List Turn}
    (ha : a = Const.regOnThr ∨ a = Const.regOffThr) (hs : s.schedule = .dispatch c :: rest) (hc : s.chans[c]? = some ch)
    (hr : ch.rxbuf = (frameOf (.write a v)).bytes) (ht : ch.txbuf = []) :
    step s = .next { s with
      schedule := rest
      rs := s.rs.setThreshold a v
      chans := s.chans.set c (.acknowledging a v) } := by
  have hdisp := dispatchTurn_frame (s := { s with schedule := rest }) hc (hr.trans (List.append_nil _).symm) ht
  rw [exec_acceptedWrite (decodeFrame_write c v ha), State.respond_eq _ (getElem?_set_chan_self hc _)] at hdisp
  simp only [State.withStore, List.set_set, ht] at hdisp
  exact (step_turn hs).trans hdisp

/-- Two racing writes of one register, in one order of their dispatches. -/
theorem run_racing_writes {s : State} {c d : Nat} {chc chd : Channel} {a v w : Word} {rest : List Turn} (hcd : c ≠ d)
    (ha : a = Const.regOnThr ∨ a = Const.regOffThr) (hc : s.chans[c]? = some chc) (hd : s.chans[d]? = some chd)
    (hrc : chc.rxbuf = (frameOf (.write a v)).bytes) (hrd : chd.rxbuf = (frameOf (.write a w)).bytes)
    (htc : chc.txbuf = []) (htd : chd.txbuf = []) (hs : s.schedule = .dispatch c :: .dispatch d :: rest) :
    Sys2Proof.core.run 2 s = .next { s with
      schedule := rest
      rs := s.rs.setThreshold a w
      chans := (s.chans.set c (.acknowledging a v)).set d (.acknowledging a w) } := by
  have hd' : (s.chans.set c (.acknowledging a v))[d]? = some chd := (List.getElem?_set_ne hcd).trans hd
  refine (run_two_of_steps (step_dispatch_write ha hs hc hrc htc) (step_dispatch_write ha rfl hd' hrd htd)).trans ?_
  simp only [Store.setThreshold_setThreshold]

/-- Settles O57: the two orders write different channels, which commute, and one threshold, which keeps the later value. -/
theorem racingWritesLeaveTheLastDispatched : Obligations.RacingWritesLeaveTheLastDispatched := by
  intro s c d chc chd a v w rest hcd ha hc hd hrc hrd htc htd
  have hd' : (s.chans.set c (.acknowledging a v))[d]? = some chd := (List.getElem?_set_ne hcd).trans hd
  refine ⟨_, _, run_racing_writes hcd ha hc hd hrc hrd htc htd rfl,
    run_racing_writes hcd.symm ha hd hc hrd hrc htd htc rfl, rfl, rfl, List.set_comm _ _ hcd, ?_, ?_⟩
  · exact congrArg (Option.map Channel.txbuf)
      ((List.getElem?_set_ne hcd.symm).trans (getElem?_set_chan_self hc (.acknowledging a v)))
  · exact congrArg (Option.map Channel.txbuf) (getElem?_set_chan_self hd' (.acknowledging a w))

/-! ### Repeating an instruction -/

/-- Delivering a response again puts the same bytes where they are (R60). -/
theorem State.respond_repeat {s t : State} {c : Nat} {body : List Byte} (h : s.respond c body = .next t) :
    t.respond c body = .next t := by
  obtain ⟨ch, hc, rfl⟩ := State.respond_next h
  rw [State.respond_eq body (getElem?_set_chan_self hc _)]
  simp only [List.set_set]

/-- A delivery leaves the configuration and the store as they were (R197). -/
theorem State.respond_keeps {s t : State} {c : Nat} {body : List Byte} (h : s.respond c body = .next t) :
    t.device = s.device ∧ t.rs = s.rs := by
  obtain ⟨ch, -, rfl⟩ := State.respond_next h
  exact ⟨rfl, rfl⟩

/-- A read request depends on the store and the configuration only, which its delivery keeps. -/
theorem exec_repeat_of_respond {i : Instr} {c : Nat} {body : Cfg → Store → List Byte} {s t : State}
    (hi : ∀ s, exec i s = s.respond c (body s.cfg s.rs)) (h : exec i s = .next t) : exec i t = .next t := by
  rw [hi] at h ⊢
  obtain ⟨hdev, hrs⟩ := State.respond_keeps h
  rw [State.cfg, hdev, hrs]
  exact State.respond_repeat h

theorem exec_repeat_of_acceptedWrite {i : Instr} {c : Nat} {a v : Word} {s t : State} (hi : Instr.acceptedWrite i c a v)
    (h : exec i s = .next t) : exec i t = .next t := by
  rw [exec_acceptedWrite hi] at h ⊢
  obtain ⟨-, hrs⟩ := State.respond_keeps h
  have hset : t.rs.setThreshold a v = t.rs := by rw [hrs, State.withStore_rs, Store.setThreshold_setThreshold]
  rw [hset]
  exact State.respond_repeat h

/-- Settles O58: a read and an accepted write end in a delivery that finds its bytes in place, and a setter finds its field
set. -/
theorem repeatingAReadOrWriteChangesNothing : Obligations.RepeatingAReadOrWriteChangesNothing := by
  intro s t c v m a i hi h
  simp only [List.mem_cons, List.not_mem_nil, or_false] at hi
  rcases hi with rfl | rfl | rfl | rfl | rfl | rfl | rfl | rfl | rfl | rfl | rfl
  · exact exec_repeat_of_respond (c := c) (body := runBody) (fun _ => rfl) h
  · exact exec_repeat_of_respond (c := c) (body := basicBody) (fun _ => rfl) h
  · exact exec_repeat_of_acceptedWrite (.inl ⟨rfl, .inl rfl⟩) h
  · exact exec_repeat_of_acceptedWrite (.inr ⟨rfl, .inl rfl⟩) h
  · exact exec_repeat_of_acceptedWrite (.inl ⟨rfl, .inr rfl⟩) h
  · exact exec_repeat_of_acceptedWrite (.inr ⟨rfl, .inr rfl⟩) h
  all_goals cases h; rfl

/-! ### A channel on a stream of frames -/

/-- A run in two parts, on any machine. -/
theorem run_add_of_run {M : Host.Core} {j : Nat} {s t : M.State} (h : M.run j s = .next t) (k : Nat) :
    M.run (j + k) s = M.run k t := by
  induction j generalizing s with
  | zero => cases h; rw [Nat.zero_add]
  | succ j ih =>
    rw [Nat.succ_add]
    cases hstep : M.step s with
    | next s' =>
      rw [run_succ_of_step hstep] at h ⊢
      exact ih h
    | fault r => simp [Host.Core.run, hstep] at h
    | refused r => simp [Host.Core.run, hstep] at h

/-- Transmit turns on a channel with nothing pending only pass (R10). -/
theorem run_transmit_idle (c : Nat) (rest : List Turn) (k : Nat) (s : State) (ch : Channel) (hc : s.chans[c]? = some ch)
    (ht : ch.txbuf = []) (hs : s.schedule = List.replicate k (.tx c) ++ rest) :
    Sys2Proof.core.run k s = .next { s with schedule := rest } := by
  induction k generalizing s with
  | zero =>
    have hs' : s.schedule = rest := hs
    subst hs'
    rfl
  | succ k ih =>
    rw [run_succ_of_step (M := Sys2Proof.core) (step_tx_of_idle hs hc ht)]
    exact ih _ hc rfl

/-- With as many transmit turns as bytes pending, or more, the whole response leaves and the turns left over pass (R199). -/
theorem run_transmit_all {c m : Nat} {rest : List Turn} {s : State} {ch : Channel} (hc : s.chans[c]? = some ch)
    (hm : ch.txbuf.length ≤ m) (hs : s.schedule = List.replicate m (.tx c) ++ rest) :
    Sys2Proof.core.run m s =
      .next { s with
        schedule := rest
        chans := s.chans.set c { ch with txbuf := [] }
        outputs := s.outputs ++ byteOutputs c ch.txbuf } := by
  obtain ⟨k, rfl⟩ := Nat.exists_eq_add_of_le hm
  rw [List.replicate_add, List.append_assoc] at hs
  rw [run_add_of_run (M := Sys2Proof.core) (run_transmit c _ ch.txbuf s ch hc rfl hs)]
  exact run_transmit_idle c rest k _ _ (getElem?_set_chan_self hc _) rfl rfl

theorem sentEvents_append (c : Nat) (outs more : List Output) :
    sentEvents c (outs ++ more) = sentEvents c outs ++ sentEvents c more :=
  List.filterMap_append

/-- Transmitted bytes are no events (R10, R13). -/
theorem sentEvents_byteOutputs (c d : Nat) (bytes : List Byte) : sentEvents c (byteOutputs d bytes) = [] := by
  induction bytes with
  | nil => rfl
  | cons b more ih => rw [byteOutputs_cons]; exact ih

theorem sentEvents_frameEvent (c : Nat) (f : Frame) :
    sentEvents c ((frameEvent f).map fun e => Output.event c e.1 e.2).toList = (frameEvent f).toList := by
  cases frameEvent f with
  | none => rfl
  | some e => simp [sentEvents]

/-- One frame, from its dispatch to the last byte of its response: the store, the bytes sent and the event are those of the
reference, and what follows the frame waits (R57, R65). -/
theorem run_frame {s : State} {c m : Nat} {ch : Channel} {f : Frame} {tail : List Byte} {rest : List Turn}
    (hd : dispatches s c ch f tail (List.replicate m (.tx c) ++ rest)) (hm : maxResponse s.cfg ≤ m) :
    ∃ t ch', Sys2Proof.core.run (m + 1) s = .next t ∧ t.device = s.device ∧ t.schedule = rest ∧
      t.rs = (frameEffect s.cfg s.rs f).1 ∧
      sentBytes c t.outputs = sentBytes c s.outputs ++ (frameEffect s.cfg s.rs f).2 ∧
      sentEvents c t.outputs = sentEvents c s.outputs ++ (frameEvent f).toList ∧
      t.chans[c]? = some ch' ∧ ch'.rxbuf = tail ∧ ch'.txbuf = [] := by
  obtain ⟨acc, hstep⟩ := step_dispatch_of_enabled hd
  obtain ⟨-, hc, -, -⟩ := hd
  have hloaded := afterDispatch_chan (s := { s with schedule := List.replicate m (.tx c) ++ rest }) f tail acc hc
  have hsend := run_transmit_all hloaded ((length_frameEffect_le _ _ f).trans hm) rfl
  refine ⟨_, _, (run_succ_of_step (M := Sys2Proof.core) hstep m).trans hsend, rfl, rfl, rfl, ?_, ?_,
    getElem?_set_chan_self hloaded _, rfl, rfl⟩
  · simp only [afterDispatch, sentBytes_append, sentBytes_frameEvent, sentBytes_byteOutputs, List.append_nil]
  · simp only [afterDispatch, sentEvents_append, sentEvents_frameEvent, sentEvents_byteOutputs, List.append_nil]

/-- Settles O55, by induction on the frames buffered: each is handled as the reference handles it, and leaves the channel ready
for the next. -/
theorem channelRefinesTheFrameStream : Obligations.ChannelRefinesTheFrameStream := by
  intro s c ch fs tail m rest hc hr ht hm hs
  induction fs generalizing s ch with
  | nil =>
    exact ⟨s, ch, by rw [List.length_nil, Nat.zero_mul]; rfl, hs, rfl, (List.append_nil _).symm, (List.append_nil _).symm,
      hc, hr, ht⟩
  | cons f fs ih =>
    rw [List.flatMap_cons, List.append_assoc] at hr
    have hs' : s.schedule = .dispatch c :: (List.replicate m (.tx c) ++ (frameTurns c m fs.length ++ rest)) := by
      rw [hs, List.length_cons, frameTurns, List.cons_append, List.append_assoc]
    obtain ⟨t₁, ch₁, hrun₁, hdev₁, hs₁, hrs₁, hbytes₁, hevents₁, hc₁, hr₁, ht₁⟩ := run_frame ⟨hs', hc, hr, ht⟩ hm
    have hcfg₁ : t₁.cfg = s.cfg := congrArg Device.cfg hdev₁
    obtain ⟨t, ch', hrun, hst, hrs, hbytes, hevents, hc', hr', ht'⟩ := ih t₁ ch₁ hc₁ hr₁ ht₁ (hcfg₁ ▸ hm) hs₁
    rw [hcfg₁, hrs₁] at hrs hbytes
    refine ⟨t, ch', ?_, hst, hrs, ?_, ?_, hc', hr', ht'⟩
    · rw [List.length_cons, Nat.succ_mul, Nat.add_comm, run_add_of_run (M := Sys2Proof.core) hrun₁]
      exact hrun
    · rw [hbytes, hbytes₁, List.append_assoc]
      rfl
    · rw [hevents, hevents₁, List.append_assoc, List.filterMap_cons]
      cases frameEvent f <;> rfl

end Sys2Proof.Machine

/-! PROOFS. The family of the encoding: decoding and encoding undo one another for requests and host operations (R81, R86, R87,
R100, R101) and for the frames sent (R90 to R93, R95), and what a turn runs once its frame or its code is decoded: the first
fault reported (R196), the acknowledgment (R211), the two block responses (R90, R91) and the host's code table (R134). -/

namespace Sys2Proof

open Machine

/-! ### The decoder on an encoding -/

/-- Six header bytes and their checksum decode as their header does (R84, R116). -/
theorem decodeFrame_frameOf (c : Nat) (h : Header) : decodeFrame c (frameOf h) = decodeHeader c h :=
  if_pos (frameValid_frameOf h)

@[simp] theorem decode_frame_bytes (cfg : Cfg) (c : Nat) (f : Frame) :
    decode cfg (.request c f.bytes) = .ok (decodeFrame c f) := rfl

@[simp] theorem decode_encodeHeader (cfg : Cfg) (c : Nat) (h : Header) :
    decode cfg (encodeHeader c h) = .ok (decodeHeader c h) := by
  rw [encodeHeader, decode_frame_bytes, decodeFrame_frameOf]

theorem decode_encodeHeader_of_eq {c : Nat} {h : Header} {i : Instr} (cfg : Cfg) (hi : decodeHeader c h = i) :
    decode cfg (encodeHeader c h) = .ok i := by
  rw [decode_encodeHeader, hi]

theorem headerRow_readRun : headerRow .readRun = .readRun := by decide

theorem headerRow_readBasic : headerRow .readBasic = .readBasic := by decide

/-- A write request has the row of its address (R87, R190). -/
theorem headerRow_write (a v : Word) :
    headerRow (.write a v) =
      if a = Const.regOnThr then .writeRegOn else if a = Const.regOffThr then .writeRegOff else .writeRegIllegal := by
  rw [headerRow, (classify_eq_writeReg_iff ..).mpr ⟨Header.unit_write a v, Header.fn_write a v⟩]
  simp only [Header.start_write]

/-- The row of a header is unknown exactly when no signature of R86 matches it (R190, R194). -/
theorem headerRow_eq_unknown_iff (h : Header) : headerRow h = .unknown ↔ h.supported = false := by
  constructor
  · intro hrow
    exact Bool.eq_false_iff.mpr fun hsup => headerRow_ne_unknown_of_supported hsup hrow
  · intro hsup
    have hclass : classify h.unitAddress h.functionCode h.start h.qty = .unknown := by
      by_contra hne
      exact Bool.eq_false_iff.mp hsup ((supported_iff_classify h).mpr hne)
    simp only [headerRow, hclass]

theorem wireWritable_eq_false_iff (a : Word) : wireWritable a = false ↔ a ≠ Const.regOnThr ∧ a ≠ Const.regOffThr := by
  simp [wireWritable]

theorem decodeHeader_readRun (c : Nat) : decodeHeader c .readRun = .readRun c := by
  rw [decodeHeader, headerRow_readRun]

theorem decodeHeader_readBasic (c : Nat) : decodeHeader c .readBasic = .readBasic c := by
  rw [decodeHeader, headerRow_readBasic]

/-- A write request decodes to the sub-row of its address, which the class row stands for (R87, R101). -/
theorem decodeHeader_write (c : Nat) (a v : Word) : decodeHeader c (.write a v) = (Instr.writeReg c a v).decodeRow := by
  rw [decodeHeader, headerRow_write, Header.start_write, Header.qty_write, Instr.decodeRow]
  split_ifs <;> rfl

theorem decodeHeader_unsupported {h : Header} (c : Nat) (hsup : h.supported = false) : decodeHeader c h = .unknown c h := by
  rw [decodeHeader, (headerRow_eq_unknown_iff h).mpr hsup]

/-- Every instruction but the class row stands for itself (R101). -/
theorem Instr.decodeRow_eq_self {i : Instr} (hi : ∀ c a v, i ≠ .writeReg c a v) : i.decodeRow = i := by
  unfold Instr.decodeRow
  split
  · exact absurd rfl (hi _ _ _)
  · rfl

theorem Instr.decodeRow_writeReg_illegal {a : Word} (c : Nat) (v : Word) (hon : a ≠ Const.regOnThr)
    (hoff : a ≠ Const.regOffThr) : (Instr.writeReg c a v).decodeRow = .writeRegIllegal c a v := by
  rw [Instr.decodeRow, if_neg hon, if_neg hoff]

/-- A request or host operation whose operands its row admits is what its encoding decodes to, on any channel. -/
theorem decode_encode (cfg : Cfg) (rs : Store) {i : Instr} (hadm : i.operandsAdmitted = true) (hreq : i.isResponse = false) :
    decode cfg (encode cfg rs i) = .ok i.decodeRow := by
  cases i with
  | readRun c => exact decode_encodeHeader_of_eq cfg (decodeHeader_readRun c)
  | readBasic c => exact decode_encodeHeader_of_eq cfg (decodeHeader_readBasic c)
  | writeRegOn c v => exact decode_encodeHeader_of_eq cfg (decodeHeader_write c _ v)
  | writeRegOff c v => exact decode_encodeHeader_of_eq cfg (decodeHeader_write c _ v)
  | writeReg c a v => exact decode_encodeHeader_of_eq cfg (decodeHeader_write c a v)
  | writeRegIllegal c a v =>
    have haddr : wireWritable a = false := Bool.not_eq_true' _ ▸ hadm
    obtain ⟨hon, hoff⟩ := (wireWritable_eq_false_iff a).mp haddr
    exact decode_encodeHeader_of_eq cfg
      ((decodeHeader_write c a v).trans (Instr.decodeRow_writeReg_illegal c v hon hoff))
  | unknown c h =>
    have hsup : h.supported = false := Bool.not_eq_true' _ ▸ hadm
    exact decode_encodeHeader_of_eq cfg (decodeHeader_unsupported c hsup)
  | crcError c f =>
    have hbad : frameValid f = false := Bool.not_eq_true' _ ▸ hadm
    exact congrArg Except.ok (if_neg (Bool.eq_false_iff.mp hbad))
  | hsetMode m => cases m <;> rfl
  | hsetAc a => cases a <;> rfl
  | hstatus | hreserved6 | hreserved7 => rfl
  | hsetBat v | hsetOn v | hsetOff v => rfl
  | respRun c | respBasic c | respException c => cases hreq
  | respAck c h => cases hreq

/-- Settles O2: a well-formed instruction has admitted operands, and only the class row stands for another. -/
theorem decodingAnEncodedRequestGivesItBack : Obligations.DecodingAnEncodedRequestGivesItBack := by
  intro cfg rs i hwf hreq
  have hadm : i.operandsAdmitted = true := (Bool.and_eq_true_iff.mp hwf).2
  exact ⟨decode_encode cfg rs hadm hreq, Instr.decodeRow_eq_self⟩

/-! ### Words written out -/

/-- Eight bytes that are a header and its checksum decode as the header does. -/
theorem decode_request_of_eq {c : Nat} {h : Header} {bytes : List Byte} {i : Instr} (cfg : Cfg)
    (hbytes : (frameOf h).bytes = bytes) (hi : decodeHeader c h = i) : decode cfg (.request c bytes) = .ok i := by
  subst hbytes
  exact decode_encodeHeader_of_eq cfg hi

theorem decode_exceptionFrame (cfg : Cfg) (c : Nat) :
    decode cfg (.response c (exceptionFrame Const.unitAddr Const.fnWrite)) = .ok (.respException c) := by
  rw [decode, decodeResponse, if_pos rfl]

/-- Settles O1: each request is the encoding of its header once the checksum is computed, the frame whose checksum fails is
kept whole, and the exception frame is a constant. -/
theorem writtenOutWordsDecode : Obligations.WrittenOutWordsDecode := by
  intro cfg c
  refine ⟨?_, ?_, ?_, ?_, ?_, ?_, ?_, rfl, rfl, rfl, ?_⟩
  · exact decode_request_of_eq cfg (by decide +kernel) (decodeHeader_readRun c)
  · exact decode_request_of_eq cfg (by decide +kernel) (decodeHeader_readBasic c)
  · exact decode_request_of_eq cfg (by decide +kernel) (decodeHeader_write c 0x1037 0x0106)
  · exact decode_request_of_eq cfg (by decide +kernel) (decodeHeader_write c 0x1038 0x012C)
  · exact decode_request_of_eq cfg (by decide +kernel) (decodeHeader_write c 0x1099 0x1234)
  · exact decode_request_of_eq cfg (by decide +kernel) (decodeHeader_unsupported c (by decide))
  · have hbad : frameValid ⟨⟨0x06, 0x18, 0x10, 0x99, 0x00, 0x00⟩, 0xF4, 0x91⟩ ≠ true := by decide +kernel
    exact congrArg Except.ok (if_neg hbad)
  · exact exceptionFrame_const ▸ decode_exceptionFrame cfg c

/-! ### The encoder on what the decoder answers -/

@[simp] theorem Mode.bit_ofBit (b : Bool) : (Mode.ofBit b).bit = b := by cases b <;> rfl
@[simp] theorem AcState.bit_ofBit (b : Bool) : (AcState.ofBit b).bit = b := by cases b <;> rfl

/-- The eight codes of the host port (R100). -/
theorem hostCode_cases (op : BitVec 3) :
    op = 0 ∨ op = 1 ∨ op = 2 ∨ op = 3 ∨ op = 4 ∨ op = 5 ∨ op = 6 ∨ op = 7 := by
  revert op
  decide

/-- What a header decodes to is encoded as that header (R81, R86, R87). -/
theorem encode_decodeHeader (cfg : Cfg) (rs : Store) (c : Nat) (h : Header) :
    encode cfg rs (decodeHeader c h) = encodeHeader c h := by
  rcases headerRow_cases h with ⟨hr, hh⟩ | ⟨hr, hh⟩ | ⟨hr, hh⟩ | ⟨hr, hh⟩ | ⟨hr, hh, -⟩ | ⟨hr, -⟩ <;>
    rw [decodeHeader, hr]
  · exact congrArg (encodeHeader c) hh.symm
  · exact congrArg (encodeHeader c) hh.symm
  · exact congrArg (encodeHeader c) hh.symm
  · exact congrArg (encodeHeader c) hh.symm
  · exact congrArg (encodeHeader c) hh.symm
  · rfl

/-- A valid frame is the frame of its header, and an invalid one is kept whole (R81, R188). -/
theorem encode_decodeFrame (cfg : Cfg) (rs : Store) (c : Nat) (f : Frame) :
    encode cfg rs (decodeFrame c f) = .request c f.bytes := by
  by_cases hv : frameValid f = true
  · rw [decodeFrame, if_pos hv, encode_decodeHeader, encodeHeader, frameOf_of_valid hv]
  · rw [decodeFrame, if_neg hv]
    rfl

/-- Of the host's data the encoder gives back what its code reads: bit 0, all of it, or nothing (R100). -/
theorem encode_decodeHost (cfg : Cfg) (rs : Store) (op : BitVec 3) (w : Word) :
    ∃ w', encode cfg rs (decodeHost op w) = .host op w' ∧ decodeHost op w' = decodeHost op w := by
  rcases hostCode_cases op with rfl | rfl | rfl | rfl | rfl | rfl | rfl | rfl
  · exact ⟨0, rfl, rfl⟩
  · exact ⟨wdataOfBit (w.getLsbD 0), congrArg (Encoding.host 1 ∘ wdataOfBit) (Mode.bit_ofBit _),
      congrArg (Instr.hsetMode ∘ Mode.ofBit) (wdataOfBit_bit0 _)⟩
  · exact ⟨wdataOfBit (w.getLsbD 0), congrArg (Encoding.host 2 ∘ wdataOfBit) (AcState.bit_ofBit _),
      congrArg (Instr.hsetAc ∘ AcState.ofBit) (wdataOfBit_bit0 _)⟩
  · exact ⟨w, rfl, rfl⟩
  · exact ⟨w, rfl, rfl⟩
  · exact ⟨w, rfl, rfl⟩
  · exact ⟨0, rfl, rfl⟩
  · exact ⟨0, rfl, rfl⟩

/-- Settles O4, for frames by the validator's answer and for host operations by the code. -/
theorem encodingADecodedFrameGivesItsBytes : Obligations.EncodingADecodedFrameGivesItsBytes :=
  ⟨encode_decodeFrame, encode_decodeHost⟩

end Sys2Proof

namespace Sys2Proof.Machine

/-! ### The response rows: delivery -/

/-- A delivery completes on every channel that exists, and touches nothing else (R115, R197). -/
theorem State.respond_respondedWith {s : State} {c : Nat} {ch : Channel} (body : List Byte) (hc : s.chans[c]? = some ch) :
    ∃ t, s.respond c body = .next t ∧ respondedWith s t c ch body ∧ t.rs = s.rs ∧ t.outputs = s.outputs :=
  ⟨_, State.respond_eq body hc,
    ⟨getElem?_set_chan_self hc _, List.length_set, fun _ hd => List.getElem?_set_ne hd.symm, rfl, rfl⟩, rfl, rfl⟩

theorem crc16_exceptionBody : crc16 (exceptionBody Const.unitAddr Const.fnWrite) = 0xC07B := by decide +kernel

/-- Settles O26, by delivery of the two bodies. -/
theorem ackAndExceptionFramesGoOut : Obligations.AckAndExceptionFramesGoOut := by
  intro s c ch hc
  refine ⟨fun h => State.respond_respondedWith h.bytes hc, ?_⟩
  obtain ⟨t, hexec, ⟨hchan, hkept⟩, hrs, houts⟩ :=
    State.respond_respondedWith (exceptionBody Const.unitAddr Const.fnWrite) hc
  refine ⟨t, hexec, ⟨hchan, hkept⟩, hchan.trans ?_, hrs, houts⟩
  rw [crc16_exceptionBody]
  rfl

/-! ### The bodies of the two block responses -/

section Blocks

variable {hdr k : Nat} {blk : Block} {a v : Word}

/-- A patch leaves every byte but the two of its slot as it was (R152). -/
theorem getElem?_patch_of_ne (resp : List Byte) (v : Word) (h0 : k ≠ slotOffset hdr (a.toNat - blk.base.toNat))
    (h1 : k ≠ slotOffset hdr (a.toNat - blk.base.toNat) + 1) : (patch hdr blk resp a v)[k]? = resp[k]? := by
  rcases patch_cases hdr blk resp a v with h | ⟨-, -, h⟩ <;> rw [h]
  rw [write16, List.getElem?_set_ne h1.symm, List.getElem?_set_ne h0.symm]

/-- A byte in no slot of a patch list stays the template's (R150). -/
theorem getElem?_patchAll_of_ne (patches : List (Word × Word))
    (h : ∀ p ∈ patches, k ≠ slotOffset hdr (p.1.toNat - blk.base.toNat) ∧
      k ≠ slotOffset hdr (p.1.toNat - blk.base.toNat) + 1) :
    (patchAll hdr blk patches)[k]? = blk.tpl[k]? := by
  have hfold : ∀ resp : List Byte, (patches.foldl (fun r p => patch hdr blk r p.1 p.2) resp)[k]? = resp[k]? := by
    induction patches with
    | nil => exact fun _ => rfl
    | cons p patches ih =>
      intro resp
      obtain ⟨h0, h1⟩ := h p List.mem_cons_self
      rw [List.foldl_cons, ih fun q hq => h q (List.mem_cons_of_mem p hq)]
      exact getElem?_patch_of_ne resp p.2 h0 h1
  exact hfold blk.tpl

end Blocks

/-- The slot of every register of the run block shows it, in the body (R27, R90). -/
theorem read16_runBody (d : Device) {rs : Store} {a v : Word} {i : Nat} (ha : a.toNat = Const.baseRun.toNat + i)
    (h : runRegister d.cfg rs a = some v) : read16 (runBody d.cfg rs) (d.cfg.hdrSize + 2 * i) = v := by
  obtain ⟨-, -, -, hlen, -, -, -⟩ := d.facts
  obtain ⟨hlo, hhi, hv⟩ := runRegister_eq_some h
  have hi : a.toNat - Const.baseRun.toNat = i := by omega
  rw [← hi]
  exact (read16_foldl_patch (blk := runBlock d.cfg) (runPatches d.cfg rs) hlen hlo hhi).trans hv

/-- The slot of every register of the basic block shows it, in the body (R27, R91). -/
theorem read16_basicBody (d : Device) {rs : Store} {a v : Word} {i : Nat} (ha : a.toNat = Const.baseBasic.toNat + i)
    (h : basicRegister d.cfg rs a = some v) : read16 (basicBody d.cfg rs) (d.cfg.hdrSize + 2 * i) = v := by
  obtain ⟨-, -, -, -, hlen, -, -⟩ := d.facts
  obtain ⟨hlo, hhi, hv⟩ := basicRegister_eq_some h
  have hi : a.toNat - Const.baseBasic.toNat = i := by omega
  rw [← hi]
  exact (read16_foldl_patch (blk := basicBlock d.cfg) (basicPatches rs) hlen hlo hhi).trans hv

/-- The four live registers of the run block (R27, R154). -/
theorem runRegister_live (d : Device) (rs : Store) :
    runRegister d.cfg rs Const.regAcVolt = some (rs.currentAcVoltage d.cfg) ∧
    runRegister d.cfg rs Const.regBatVolt = some rs.batteryVoltage ∧
    runRegister d.cfg rs Const.regPvVolt = some (rs.currentTelemetry d.cfg).pvVoltage ∧
    runRegister d.cfg rs Const.regPvPower = some (rs.currentTelemetry d.cfg).pvPower := by
  obtain ⟨-, -, -, -, -, hregs, -⟩ := d.facts
  have inBlock : ∀ a : Word, 4096 ≤ a.toNat → a.toNat < 4096 + 36 →
      Const.baseRun.toNat ≤ a.toNat ∧ a.toNat < Const.baseRun.toNat + d.cfg.nRegsRun :=
    fun a hlo hhi => ⟨hlo, hhi.trans_le (Nat.add_le_add_left hregs 4096)⟩
  refine ⟨?_, ?_, ?_, ?_⟩ <;> rw [runRegister, if_pos (inBlock _ (by decide) (by decide))] <;> simp

/-- The two live registers of the basic block (R27, R155). -/
theorem basicRegister_live (d : Device) (rs : Store) :
    basicRegister d.cfg rs Const.regOnThr = some rs.onThreshold ∧
    basicRegister d.cfg rs Const.regOffThr = some rs.offThreshold := by
  obtain ⟨-, -, -, -, -, -, hregs⟩ := d.facts
  have inBlock : ∀ a : Word, 4132 ≤ a.toNat → a.toNat < 4132 + 21 →
      Const.baseBasic.toNat ≤ a.toNat ∧ a.toNat < Const.baseBasic.toNat + d.cfg.nRegsBasic :=
    fun a hlo hhi => ⟨hlo, hhi.trans_le (Nat.add_le_add_left hregs 4132)⟩
  refine ⟨?_, ?_⟩ <;> rw [basicRegister, if_pos (inBlock _ (by decide) (by decide))] <;> simp

theorem Store.currentAcVoltage_eq (cfg : Cfg) (rs : Store) :
    rs.currentAcVoltage cfg = if rs.acState = .mainsOk then cfg.acVoltOk else cfg.acVoltLost := by
  unfold Store.currentAcVoltage
  cases rs.acState <;> rfl

theorem Store.pvVoltage_currentTelemetry (cfg : Cfg) (rs : Store) :
    (rs.currentTelemetry cfg).pvVoltage = if rs.mode = .day then cfg.pvVoltDay else cfg.pvVoltNight := by
  unfold Store.currentTelemetry
  cases rs.mode <;> rfl

theorem Store.pvPower_currentTelemetry (cfg : Cfg) (rs : Store) :
    (rs.currentTelemetry cfg).pvPower = if rs.mode = .day then cfg.pvPowerDay else cfg.pvPowerNight := by
  unfold Store.currentTelemetry
  cases rs.mode <;> rfl

/-- Settles O20: the request and the response row deliver the same body, whose live slots show their registers. -/
theorem readRunAnswersWithTheRunBlock : Obligations.ReadRunAnswersWithTheRunBlock := by
  intro s c ch i hi hc
  have hexec : exec i s = s.respond c (runBody s.cfg s.rs) := by
    rcases hi with rfl | rfl <;> rfl
  obtain ⟨t, hnext, hresp, hrs, houts⟩ := State.respond_respondedWith (runBody s.cfg s.rs) hc
  obtain ⟨hac, hbat, hpvv, hpvp⟩ := runRegister_live s.device s.rs
  obtain ⟨-, -, -, hlen, -, -, -⟩ := s.device.facts
  refine ⟨t, _, hexec.trans hnext, hresp, hrs, houts, (length_runBody ..).trans hlen, ?_,
    read16_runBody s.device (i := 6) rfl hbat, ?_, ?_, fun k hk => getElem?_patchAll_of_ne _ ?_⟩
  · exact (read16_runBody s.device (i := 1) rfl hac).trans (Store.currentAcVoltage_eq _ _)
  · exact (read16_runBody s.device (i := 32) rfl hpvv).trans (Store.pvVoltage_currentTelemetry _ _)
  · exact (read16_runBody s.device (i := 35) rfl hpvp).trans (Store.pvPower_currentTelemetry _ _)
  · simp only [List.forall_mem_cons] at hk
    obtain ⟨kac, kbat, kpvv, kpvp, -⟩ := hk
    simp only [runPatches, List.forall_mem_cons]
    exact ⟨kpvv, kpvp, kbat, kac, fun _ h => absurd h List.not_mem_nil⟩

/-- Settles O21: the request and the response row deliver the same body, whose two live slots show the thresholds. -/
theorem readBasicAnswersWithTheBasicBlock : Obligations.ReadBasicAnswersWithTheBasicBlock := by
  intro s c ch i hi hc
  have hexec : exec i s = s.respond c (basicBody s.cfg s.rs) := by
    rcases hi with rfl | rfl <;> rfl
  obtain ⟨t, hnext, hresp, hrs, houts⟩ := State.respond_respondedWith (basicBody s.cfg s.rs) hc
  obtain ⟨hon, hoff⟩ := basicRegister_live s.device s.rs
  obtain ⟨-, -, -, -, hlen, -, -⟩ := s.device.facts
  refine ⟨t, _, hexec.trans hnext, hresp, hrs, houts, (length_basicBody ..).trans hlen,
    read16_basicBody s.device (i := 19) rfl hon, read16_basicBody s.device (i := 20) rfl hoff,
    fun k hk => getElem?_patchAll_of_ne _ ?_⟩
  simp only [List.forall_mem_cons] at hk
  obtain ⟨kon, koff, -⟩ := hk
  simp only [basicPatches, List.forall_mem_cons]
  exact ⟨kon, koff, fun _ h => absurd h List.not_mem_nil⟩

/-! ### The decoder of outgoing frames -/

section Shown

variable (d : Device) (rs : Store) {a v : Word}

/-- A run response shows every register of its block (R51, R90). -/
theorem shownAt_runResponse (h : runRegister d.cfg rs a = some v) :
    shownAt d.cfg.hdrSize (runBlock d.cfg) (runResponse d.cfg rs) a = v := by
  obtain ⟨hlo, -, -⟩ := runRegister_eq_some h
  rw [shownAt, slotIndex_of_le (blk := runBlock d.cfg) hlo, Int.toNat_natCast]
  exact (responseSlotsShowTheDeviceRegisters d rs a v).1 h

/-- A basic response shows every register of its block (R51, R91). -/
theorem shownAt_basicResponse (h : basicRegister d.cfg rs a = some v) :
    shownAt d.cfg.hdrSize (basicBlock d.cfg) (basicResponse d.cfg rs) a = v := by
  obtain ⟨hlo, -, -⟩ := basicRegister_eq_some h
  rw [shownAt, slotIndex_of_le (blk := basicBlock d.cfg) hlo, Int.toNat_natCast]
  exact (responseSlotsShowTheDeviceRegisters d rs a v).2 h

/-- A run response is the one that shows its own live values, since those are the store's (R90). -/
theorem isRunResponse_runResponse : isRunResponse d.cfg (runResponse d.cfg rs) = true := by
  obtain ⟨hac, hbat, hpvv, hpvp⟩ := runRegister_live d rs
  dsimp only [isRunResponse]
  rw [shownAt_runResponse d rs hac, shownAt_runResponse d rs hbat, shownAt_runResponse d rs hpvv,
    shownAt_runResponse d rs hpvp]
  exact beq_self_eq_true _

/-- A basic response is the one that shows its own thresholds (R91). -/
theorem isBasicResponse_basicResponse : isBasicResponse d.cfg (basicResponse d.cfg rs) = true := by
  obtain ⟨hon, hoff⟩ := basicRegister_live d rs
  dsimp only [isBasicResponse]
  rw [shownAt_basicResponse d rs hon, shownAt_basicResponse d rs hoff]
  exact beq_self_eq_true _

end Shown

/-- Every run response has the length of the run template and its checksum (R90, R115). -/
theorem isRunResponse_eq_false_of_length {cfg : Cfg} {bytes : List Byte} (h : bytes.length ≠ cfg.tplRun.length + 2) :
    isRunResponse cfg bytes = false := by
  rw [isRunResponse, beq_eq_false_iff_ne]
  rintro heq
  exact h ((congrArg List.length heq).trans (length_buildResponse ..))

theorem length_exceptionFrame : (exceptionFrame Const.unitAddr Const.fnWrite).length = 5 := by
  rw [exceptionFrame_const]
  rfl

/-- An acknowledgment has eight bytes (R92). -/
theorem ackHeader_eq_none_of_length {bytes : List Byte} (h : bytes.length ≠ 8) : ackHeader bytes = none := by
  unfold ackHeader
  split
  case h_1 f htake =>
    rw [Frame.take_some htake, List.append_nil] at h
    exact absurd f.length_bytes h
  case h_2 => rfl

/-- A frame of more than eight bytes is a block response or has no response shape (R95). -/
theorem decodeResponse_of_long {bytes : List Byte} (cfg : Cfg) (c : Nat) (h : 8 < bytes.length) :
    decodeResponse cfg c bytes =
      if isRunResponse cfg bytes then .ok (.respRun c)
      else if isBasicResponse cfg bytes then .ok (.respBasic c)
      else .error .noResponseShape := by
  have hexc : bytes ≠ exceptionFrame Const.unitAddr Const.fnWrite := by
    rintro rfl
    exact absurd h (by rw [length_exceptionFrame]; decide)
  rw [decodeResponse, if_neg hexc, ackHeader_eq_none_of_length h.ne']

/-- The frame of an acknowledged header is its acknowledgment (R92, R211). -/
theorem ackHeader_ackFrame {h : Header} (hack : h.acknowledged = true) : ackHeader (ackFrame h) = some h := by
  have htake : Frame.take (ackFrame h) = some (frameOf h, []) := Frame.take_bytes (frameOf h)
  rw [ackHeader, htake]
  exact if_pos (Bool.and_eq_true_iff.mpr ⟨frameValid_frameOf h, hack⟩)

/-- Settles O3, by cases on the response: the exception frame and an acknowledgment are told by their lengths, a block response
by the live values it shows, and the basic one from a run response by the lengths of the templates. -/
theorem decodingASentResponseGivesItBack : Obligations.DecodingASentResponseGivesItBack := by
  intro d rs i hwf hresp hdiff
  obtain ⟨-, -, -, hrun, hbasic, hnrun, hnbasic⟩ := d.facts
  cases i with
  | respRun c =>
    have hlong : 8 < (runResponse d.cfg rs).length := by
      rw [runResponse, length_appendChecksum, length_runBody]
      omega
    exact (decodeResponse_of_long d.cfg c hlong).trans (if_pos (isRunResponse_runResponse d rs))
  | respBasic c =>
    have hlen : (basicResponse d.cfg rs).length = d.cfg.tplBasic.length + 2 := by
      rw [basicResponse, length_appendChecksum, length_basicBody]
    have hne := hdiff ⟨c, rfl⟩
    have hnotRun := isRunResponse_eq_false_of_length (cfg := d.cfg) (bytes := basicResponse d.cfg rs) (by omega)
    refine (decodeResponse_of_long d.cfg c (by omega)).trans ?_
    rw [if_neg (Bool.eq_false_iff.mp hnotRun), if_pos (isBasicResponse_basicResponse d rs)]
  | respAck c h =>
    have hack : h.acknowledged = true := (Bool.and_eq_true_iff.mp hwf).2
    have hexc : ackFrame h ≠ exceptionFrame Const.unitAddr Const.fnWrite := by
      intro heq
      have hlen := congrArg List.length heq
      rw [ackFrame, length_appendChecksum, Header.length_bytes, length_exceptionFrame] at hlen
      omega
    change decodeResponse d.cfg c (ackFrame h) = _
    rw [decodeResponse, if_neg hexc, ackHeader_ackFrame hack]
  | respException c => exact decode_exceptionFrame d.cfg c
  | readRun c | readBasic c => cases hresp
  | writeRegOn c v | writeRegOff c v => cases hresp
  | writeRegIllegal c a v | writeReg c a v => cases hresp
  | unknown c h => cases hresp
  | crcError c f => cases hresp
  | hstatus | hreserved6 | hreserved7 => cases hresp
  | hsetMode m => cases hresp
  | hsetAc a => cases hresp
  | hsetBat v | hsetOn v | hsetOff v => cases hresp

/-! ### Steps of the dispatcher -/

/-- Settles O33: a fetch takes the frame, and its instruction runs on what is left. -/
theorem dispatchStepRunsTheDecodedFrame : Obligations.DispatchStepRunsTheDecodedFrame := by
  intro s c ch f tail rest hd
  exact ⟨decode_frame_bytes s.cfg c f, step_dispatch_eq_exec hd⟩

/-- A checksum-valid frame decodes as its header does (R84, R187). -/
theorem decodeFrame_of_crc {f : Frame} (c : Nat) (hcrc : be16 f.crcHi f.crcLo = crc16 f.header.bytes) :
    decodeFrame c f = decodeHeader c f.header ∧ frameOf f.header = f := by
  have hv : frameValid f = true := (frameValid_iff f).mpr hcrc
  exact ⟨if_pos hv, frameOf_of_valid hv⟩

/-- A header that is neither read request and no write of unit 6 has no signature (R86, R194). -/
theorem headerRow_unknown_of_ne {h : Header} (hrun : h ≠ .readRun) (hbasic : h ≠ .readBasic)
    (hwrite : h.unitAddress ≠ Const.unitAddr ∨ h.functionCode ≠ Const.fnWrite) : headerRow h = .unknown := by
  have notWrite : ∀ a v, h ≠ .write a v := by
    rintro a v rfl
    exact hwrite.elim (absurd rfl) (absurd rfl)
  rcases headerRow_cases h with ⟨-, hh⟩ | ⟨-, hh⟩ | ⟨-, hh⟩ | ⟨-, hh⟩ | ⟨-, hh, -⟩ | ⟨hr, -⟩
  · exact absurd hh hrun
  · exact absurd hh hbasic
  · exact absurd hh (notWrite _ _)
  · exact absurd hh (notWrite _ _)
  · exact absurd hh (notWrite _ _)
  · exact hr

section Faults

variable {s : State} {c : Nat} {ch : Channel} {f : Frame}

/-- A frame whose checksum fails is dropped, whatever its header (R188). -/
theorem exec_decodeFrame_of_badCrc (hc : s.chans[c]? = some ch) (hcrc : be16 f.crcHi f.crcLo ≠ crc16 f.header.bytes) :
    exec (decodeFrame c f) s = .next (s.emit (.event c .crcError f)) := by
  have hbad : ¬ frameValid f = true := fun hv => hcrc ((frameValid_iff f).mp hv)
  rw [decodeFrame, if_neg hbad]
  exact State.drop_eq .crcError f hc

/-- A checksum-valid frame without a signature is dropped (R194). -/
theorem exec_decodeFrame_of_unknown (hc : s.chans[c]? = some ch) (hcrc : be16 f.crcHi f.crcLo = crc16 f.header.bytes)
    (hrow : headerRow f.header = .unknown) :
    exec (decodeFrame c f) s = .next (s.emit (.event c .unknown f)) := by
  obtain ⟨hdec, hframe⟩ := decodeFrame_of_crc c hcrc
  rw [hdec, decodeHeader, hrow]
  exact (State.drop_eq .unknown (frameOf f.header) hc).trans (by rw [hframe])

/-- A checksum-valid write to a register that is not writable takes the exception (R208, R209). -/
theorem exec_decodeFrame_of_illegalWrite (hc : s.chans[c]? = some ch)
    (hcrc : be16 f.crcHi f.crcLo = crc16 f.header.bytes) (hu : f.header.unitAddress = Const.unitAddr)
    (hf : f.header.functionCode = Const.fnWrite) (hon : f.header.start ≠ Const.regOnThr)
    (hoff : f.header.start ≠ Const.regOffThr) :
    exec (decodeFrame c f) s = .next { s with
      chans := s.chans.set c { ch with txbuf := [0x06, 0x98, 0x02, 0x7B, 0xC0], crc := 0xC07B }
      outputs := s.outputs ++ [.event c .illegalAddress f] } := by
  obtain ⟨hdec, hframe⟩ := decodeFrame_of_crc c hcrc
  have hwrite := write_of_header hu hf
  have hillegal : decodeFrame c f = .writeRegIllegal c f.header.start f.header.qty := by
    rw [hdec, ← Instr.decodeRow_writeReg_illegal c _ hon hoff, ← decodeHeader_write, hwrite]
  rw [hillegal]
  refine (State.raiseIllegalDataAddress_eq (.write f.header.start f.header.qty) hc).trans ?_
  rw [Header.unit_write, Header.fn_write, exceptionFrame_const, crc16_exceptionBody, hwrite, hframe]

end Faults

/-- Settles O6: the decoder tries the checksum, then the signature, then the write target, and the instruction it answers
drops the frame or takes the exception. -/
theorem firstFaultOfAFrameIsTheOneReported : Obligations.FirstFaultOfAFrameIsTheOneReported := by
  intro s c ch f tail rest hd
  have hstep := step_dispatch_eq_exec hd
  obtain ⟨-, hc, -, -⟩ := hd
  have hc' := getElem?_set_chan_self hc { ch with rxbuf := tail, crc := crc16 f.body }
  refine ⟨fun hcrc => ?_, fun hcrc hrun hbasic hwrite => ?_, fun hcrc hu hf hon hoff => ?_⟩
  · exact hstep.trans (exec_decodeFrame_of_badCrc hc' hcrc)
  · exact hstep.trans (exec_decodeFrame_of_unknown hc' hcrc (headerRow_unknown_of_ne hrun hbasic hwrite))
  · refine hstep.trans ((exec_decodeFrame_of_illegalWrite hc' hcrc hu hf hon hoff).trans ?_)
    rw [List.set_set]

/-- Settles O27: an accepted write is answered by the echo of its header, of which a valid frame is the frame. -/
theorem acknowledgmentEqualsTheRequest : Obligations.AcknowledgmentEqualsTheRequest := by
  intro s c ch f tail rest hd hv hu hf ha
  have hstep := step_dispatch_eq_exec hd
  obtain ⟨-, hc, -, -⟩ := hd
  have hframe : frameOf (.write f.header.start f.header.qty) = f := by
    rw [write_of_header hu hf, frameOf_of_valid hv]
  have hexec := exec_acceptedWrite (decodeFrame_write c f.header.qty ha)
    { s with schedule := rest, chans := s.chans.set c { ch with rxbuf := tail, crc := crc16 f.body } }
  rw [hframe, State.respond_eq _ (getElem?_set_chan_self hc _)] at hexec
  refine ⟨_, _, hstep.trans hexec, getElem?_set_chan_self (getElem?_set_chan_self hc _) _, ?_, rfl⟩
  exact congrArg Frame.bytes hframe

/-! ### Steps of the host -/

theorem step_host {s : State} {op : BitVec 3} {w : Word} {rest : List Turn} (hs : s.schedule = .host op w :: rest) :
    step s = exec (decodeHost op w) { s with schedule := rest } := step_turn hs

/-- Settles O34: a host turn takes nothing from the state but itself. -/
theorem hostStepRunsTheDecodedOperation : Obligations.HostStepRunsTheDecodedOperation := by
  intro s op w rest hs
  exact ⟨rfl, step_host hs⟩

theorem Mode.ofBit_eq_ite (b : Bool) : Mode.ofBit b = if b = false then .day else .night := by cases b <;> rfl
theorem AcState.ofBit_eq_ite (b : Bool) : AcState.ofBit b = if b = false then .mainsOk else .mainsLost := by cases b <;> rfl

/-- Settles O35, by cases on the code: each of the eight has its own field or none. -/
theorem hostTurnFollowsTheCodeTable : Obligations.HostTurnFollowsTheCodeTable := by
  intro s op w rest hs
  rw [step_host hs]
  rcases hostCode_cases op with rfl | rfl | rfl | rfl | rfl | rfl | rfl | rfl
  · exact ⟨_, rfl, rfl, rfl, rfl, rfl, rfl, rfl, rfl, rfl, rfl⟩
  · exact ⟨_, rfl, rfl, rfl, rfl, (List.append_nil _).symm, Mode.ofBit_eq_ite _, rfl, rfl, rfl, rfl⟩
  · exact ⟨_, rfl, rfl, rfl, rfl, (List.append_nil _).symm, rfl, AcState.ofBit_eq_ite _, rfl, rfl, rfl⟩
  all_goals exact ⟨_, rfl, rfl, rfl, rfl, (List.append_nil _).symm, rfl, rfl, rfl, rfl, rfl⟩

/-- Settles O31: the two code bits and the three words stand side by side, so a field is what is left above its place. -/
theorem hostReadDataLayout : Obligations.HostReadDataLayout := by
  intro s
  have hmode : s.rs.mode.bit = decide (s.rs.mode = .night) := by cases s.rs.mode <;> rfl
  have hac : s.rs.acState.bit = decide (s.rs.acState = .mainsLost) := by cases s.rs.acState <;> rfl
  rw [← hmode, ← hac]
  refine ⟨?_, ?_, ?_, ?_, ?_⟩
  · simp only [State.hRdata, Store.hRdata, BitVec.getLsbD_append]
    simp
  · simp only [State.hRdata, Store.hRdata, BitVec.getLsbD_append]
    simp
  · rw [State.hRdata, Store.hRdata, BitVec.extractLsb'_append_eq_of_le (by decide),
      BitVec.extractLsb'_append_eq_of_le (by decide)]
    exact BitVec.extractLsb'_append_eq_right
  · rw [State.hRdata, Store.hRdata, BitVec.extractLsb'_append_eq_of_le (by decide)]
    exact BitVec.extractLsb'_append_eq_right
  · exact BitVec.extractLsb'_append_eq_right

end Sys2Proof.Machine

/-! PROOFS. The family of the checksum: the byte step in its bit-serial form (R113), the residue of a valid sequence (R116), the
appended checksum (R115, R118), and which changes of a valid frame are detected (R120). -/

namespace Sys2Proof.Machine

/-! ### One shift, and eight of them -/

/-- The shift of a register that a pattern has entered: bit 0 of the pattern acts as the data bit of the bit-serial step, the
other bits only move down (R113). -/
theorem crcShift_xor (r w : Word) : crcShift (r ^^^ w) = crcBit r (w.getLsbD 0) ^^^ (w >>> 1) := by
  unfold crcShift crcBit
  rw [BitVec.getLsbD_xor, BitVec.ushiftRight_xor_distrib]
  split
  · ac_rfl
  · rfl

/-- After `k` shifts the `k` low bits of the byte have been taken bit-serially, and the rest of it is still in the register. -/
theorem iterate_crcShift_xor (crc : Word) (b : Byte) (k : Nat) :
    crcShift^[k] (crc ^^^ b.setWidth 16) =
      (List.range k).foldl (fun r i => crcBit r (b.getLsbD i)) crc ^^^ (b.setWidth 16 >>> k) := by
  induction k with
  | zero => simp
  | succ k ih =>
    have hbit : (b.setWidth 16 >>> k).getLsbD 0 = b.getLsbD k := by
      by_cases hk : k < 16
      · simp [hk]
      · simp [hk, BitVec.getLsbD_of_ge b k (by omega)]
    rw [Function.iterate_succ_apply', ih, crcShift_xor, hbit, ← BitVec.shiftRight_add, List.range_succ, List.foldl_append]
    rfl

/-- The byte step is the bit-serial one: after eight shifts nothing of the byte is left (R113). -/
theorem crcUpdate_eq_serial (crc : Word) (b : Byte) : crcUpdate crc b = crcUpdateSerial crc b := by
  have hgone : b.setWidth 16 >>> 8 = 0#16 := by
    apply BitVec.eq_of_toNat_eq
    have := b.isLt
    simp [Nat.shiftRight_eq_div_pow]
    omega
  rw [crcUpdate, iterate_crcShift_xor, hgone, BitVec.xor_zero, crcUpdateSerial]

/-- Settles O7: the bit-serial byte step, written out, is its eight single-bit steps. -/
theorem bitSerialChecksumEqualsByteStep : Obligations.BitSerialChecksumEqualsByteStep := by
  intro crc b
  exact ⟨crcUpdate_eq_serial crc b, crcUpdate_eq_serial crc b⟩

/-! ### The steps lose nothing -/

/-- The polynomial has bit 15 set, so bit 15 after a shift is the bit that left at the right (R111). -/
theorem getLsbD_crcShift_top (crc : Word) : (crcShift crc).getLsbD 15 = crc.getLsbD 0 := by
  unfold crcShift
  split
  case isTrue h => simp [h]
  case isFalse h => simpa using h

theorem crcShift_injective : Function.Injective crcShift := by
  intro x y h
  have hlow : x.getLsbD 0 = y.getLsbD 0 := by rw [← getLsbD_crcShift_top, h, getLsbD_crcShift_top]
  have hrest : x >>> 1 = y >>> 1 := by
    unfold crcShift at h
    rw [hlow] at h
    split at h
    · exact (BitVec.xor_left_inj _).mp h
    · exact h
  apply BitVec.eq_of_getLsbD_eq
  intro i hi
  cases i with
  | zero => exact hlow
  | succ i => simpa [Nat.add_comm] using congrArg (·.getLsbD i) hrest

theorem crcUpdate_injective_left (b : Byte) : Function.Injective fun crc => crcUpdate crc b :=
  fun _ _ h => (BitVec.xor_left_inj _).mp (crcShift_injective.iterate 8 h)

theorem crcUpdate_injective_right (crc : Word) : Function.Injective (crcUpdate crc) := by
  intro b b' h
  have hwide : b.setWidth 16 = b'.setWidth 16 := (BitVec.xor_right_inj _).mp (crcShift_injective.iterate 8 h)
  simpa using congrArg (BitVec.setWidth 8) hwide

theorem foldl_crcUpdate_injective (s : List Byte) : Function.Injective fun crc => s.foldl crcUpdate crc := by
  induction s with
  | nil => exact fun _ _ h => h
  | cons b s ih => exact ih.comp (crcUpdate_injective_left b)

/-- Two sequences that differ in one byte have different checksums (R120). -/
theorem crc16_set_ne {s : List Byte} {i : Nat} {b : Byte} (hi : i < s.length) (hne : b ≠ s[i]) :
    crc16 (s.set i b) ≠ crc16 s := by
  intro h
  have hkept : crc16 s = crc16 (s.take i ++ s[i] :: s.drop (i + 1)) := by simp
  rw [hkept, List.set_eq_take_append_cons_drop, if_pos hi, crc16_append, crc16_append] at h
  exact hne (crcUpdate_injective_right _ (foldl_crcUpdate_injective _ h))

/-! ### The residue -/

/-- While no 1 leaves at the right, shifts of the register are shifts of the word (R111). -/
theorem iterate_crcShift_of_low_zero (w : Word) (k : Nat) (h : ∀ i, i < k → w.getLsbD i = false) :
    crcShift^[k] w = w >>> k := by
  induction k with
  | zero => simp
  | succ k ih =>
    rw [Function.iterate_succ_apply', ih fun i hi => h i (Nat.lt_succ_of_lt hi), crcShift, if_neg, ← BitVec.shiftRight_add]
    simp [h k (Nat.lt_succ_self k)]

theorem be16_eq_append (hi lo : Byte) : be16 hi lo = hi ++ lo := by
  apply BitVec.eq_of_toNat_eq
  rw [toNat_be16, BitVec.toNat_append, ← Nat.shiftLeft_add_eq_or_of_lt lo.isLt, Nat.shiftLeft_eq]

/-- The low byte of a checksum brings its high byte down into the low half, and the high byte clears the register (R116). -/
theorem crcUpdate_be16 (hi lo : Byte) : crcUpdate (crcUpdate (be16 hi lo) lo) hi = 0 := by
  have hlow : ∀ i, i < 8 → (be16 hi lo ^^^ lo.setWidth 16).getLsbD i = false := by
    intro i hlt
    rw [be16_eq_append, BitVec.getLsbD_xor, BitVec.getLsbD_append, if_pos hlt]
    simp [show i < 16 by omega]
  have hdown : crcUpdate (be16 hi lo) lo = hi.setWidth 16 := by
    rw [crcUpdate, iterate_crcShift_of_low_zero _ 8 hlow]
    apply BitVec.eq_of_getLsbD_eq
    intro i hlt
    rw [be16_eq_append, BitVec.getLsbD_ushiftRight, BitVec.getLsbD_xor, BitVec.getLsbD_append, if_neg (by omega)]
    simp [hlt]
  rw [hdown, crcUpdate, BitVec.xor_self]
  exact iterate_crcShift_of_low_zero 0 8 fun i _ => BitVec.getLsbD_zero

theorem crcUpdate_crcUpdate_eq_zero_iff (crc : Word) (lo hi : Byte) :
    crcUpdate (crcUpdate crc lo) hi = 0 ↔ be16 hi lo = crc := by
  constructor
  · intro h
    rw [← crcUpdate_be16 hi lo] at h
    exact (crcUpdate_injective_left lo (crcUpdate_injective_left hi h)).symm
  · rintro rfl
    exact crcUpdate_be16 hi lo

/-- The validator on a body and two bytes compares them with the body's checksum (R116). -/
theorem crcValid_append_iff (body : List Byte) (lo hi : Byte) :
    crcValid (body ++ [lo, hi]) = true ↔ be16 hi lo = crc16 body := by
  simp [crcValid]

theorem exists_eq_append_pair {s : List Byte} (h : 2 ≤ s.length) : ∃ body lo hi, s = body ++ [lo, hi] := by
  obtain ⟨lo, hi, hlast⟩ := List.length_eq_two.mp (show (s.drop (s.length - 2)).length = 2 by simp; omega)
  exact ⟨s.take (s.length - 2), lo, hi, by rw [← hlast, List.take_append_drop]⟩

/-- Settles O8: the validator's comparison is the residue of the last two steps. -/
theorem validSequencesHaveZeroResidue : Obligations.ValidSequencesHaveZeroResidue := by
  intro f hlen
  obtain ⟨body, lo, hi, rfl⟩ := exists_eq_append_pair hlen
  rw [crcValid_append_iff, crc16_append]
  exact (crcUpdate_crcUpdate_eq_zero_iff (crc16 body) lo hi).symm

/-! ### The checksum bytes of a frame -/

/-- Settles O9: the two bytes appended make the checksum up again, in a sequence and in a frame. -/
theorem appendedChecksumIsAccepted : Obligations.AppendedChecksumIsAccepted := by
  refine ⟨fun body => ⟨List.take_left, List.drop_left, ?_⟩, decodeFrame_frameOf⟩
  exact (crcValid_append_iff _ _ _).mpr (be16_hi8_lo8 _)

/-- Settles O11: a word is its two bytes. -/
theorem exactlyOneChecksumIsValid : Obligations.ExactlyOneChecksumIsValid := by
  intro h lo hi
  rw [frameValid_iff, Frame.crcRx_mk, Frame.body_mk]
  constructor
  · intro heq
    rw [← heq]
    exact ⟨(lo8_be16 hi lo).symm, (hi8_be16 hi lo).symm⟩
  · rintro ⟨rfl, rfl⟩
    exact be16_hi8_lo8 _

end Sys2Proof.Machine

namespace Sys2Proof

/-! ### The bytes of a frame number -/

theorem extractLsb'_extractLsb'_of_le {w len n : Nat} (x : BitVec w) (start : Nat) {k : Nat} (h : k + n ≤ len) :
    (x.extractLsb' start len).extractLsb' k n = x.extractLsb' (start + k) n := by
  apply BitVec.eq_of_getLsbD_eq
  intro i hi
  simp [hi, show k + i < len by omega, Nat.add_assoc]

/-- The frame number's bytes in wire order (R81). -/
theorem Frame.bytes_ofNumber (n : BitVec 64) :
    (Frame.ofNumber n).bytes = (List.range 8).map fun i => n.extractLsb' (56 - 8 * i) 8 := by
  simp [Frame.ofNumber, Header.ofNumber, Frame.bytes, Frame.body, Header.bytes, List.range_succ,
    extractLsb'_extractLsb'_of_le]

theorem Header.ofNumber_number (h : Header) : Header.ofNumber h.number = h := by
  obtain ⟨unit, fn, ahi, alo, qhi, qlo⟩ := h
  simp only [Header.ofNumber, Header.number, Header.mk.injEq]
  refine ⟨?_, ?_, ?_, ?_, ?_, BitVec.extractLsb'_append_eq_right⟩
  all_goals repeat rw [BitVec.extractLsb'_append_eq_of_le (by decide)]
  on_goal 1 => exact BitVec.extractLsb'_eq_self
  all_goals exact BitVec.extractLsb'_append_eq_right

theorem Frame.ofNumber_number (f : Frame) : Frame.ofNumber f.number = f := by
  have hheader : f.number.extractLsb' 16 48 = f.header.number := by
    rw [Frame.number, BitVec.extractLsb'_append_eq_of_le (by decide), BitVec.extractLsb'_append_eq_of_le (by decide)]
    exact BitVec.extractLsb'_eq_self
  have hlo : f.number.extractLsb' 8 8 = f.crcLo := by
    rw [Frame.number, BitVec.extractLsb'_append_eq_of_le (by decide)]
    exact BitVec.extractLsb'_append_eq_right
  have hhi : f.number.extractLsb' 0 8 = f.crcHi := BitVec.extractLsb'_append_eq_right
  rw [Frame.ofNumber, hheader, hlo, hhi, Header.ofNumber_number]

/-- A byte taken from a number changes with bit `k` exactly when it holds it. -/
theorem extractLsb'_xor_bit_eq_iff {w k : Nat} (x : BitVec w) (start : Nat) (hk : k < w) :
    (x ^^^ BitVec.twoPow w k).extractLsb' start 8 = x.extractLsb' start 8 ↔ k < start ∨ start + 8 ≤ k := by
  constructor
  · intro h
    by_contra hin
    have hbit := congrArg (·.getLsbD (k - start)) h
    simp [show start + (k - start) = k by omega, show k - start < 8 by omega, hk] at hbit
  · intro hout
    apply BitVec.eq_of_getLsbD_eq
    intro i hi
    simp [hi, hk, show k ≠ start + i by omega]

/-- Flipping bit `k` of a frame number changes the byte that holds it, and no other (R81). -/
theorem Frame.bytes_ofNumber_flip (n : BitVec 64) {k : Nat} (hk : k < 64) :
    ∃ i b, ∃ h : i < (Frame.ofNumber n).bytes.length, b ≠ (Frame.ofNumber n).bytes[i] ∧
      (Frame.ofNumber (n ^^^ (1#64 <<< k))).bytes = (Frame.ofNumber n).bytes.set i b := by
  rw [← BitVec.twoPow_eq]
  refine ⟨7 - k / 8, (n ^^^ BitVec.twoPow 64 k).extractLsb' (56 - 8 * (7 - k / 8)) 8,
    by rw [Frame.length_bytes]; omega, ?_, ?_⟩
  · simp only [Frame.bytes_ofNumber, List.getElem_map, List.getElem_range, Ne, extractLsb'_xor_bit_eq_iff _ _ hk]
    omega
  · simp only [Frame.bytes_ofNumber]
    apply List.ext_getElem
    · simp
    · intro j hj _
      have hj8 : j < 8 := by simpa using hj
      simp only [List.getElem_set, List.getElem_map, List.getElem_range]
      split
      case isTrue h => rw [h]
      case isFalse h => exact (extractLsb'_xor_bit_eq_iff _ _ hk).mpr (by omega)

end Sys2Proof

namespace Sys2Proof.Machine

/-! ### A change of a single bit -/

/-- Settles O12: a valid frame has residue 0, and the change of one byte changes the residue. -/
theorem singleBitChangesAreDetected : Obligations.SingleBitChangesAreDetected := by
  intro f k hk hv
  have residue : ∀ g : Frame, frameValid g = true ↔ crc16 g.bytes = 0 :=
    fun g => validSequencesHaveZeroResidue g.bytes (by simp)
  obtain ⟨i, b, hi, hne, hflip⟩ := Frame.bytes_ofNumber_flip f.number hk
  rw [Bool.eq_false_iff, Ne, residue, hflip]
  intro hzero
  refine crc16_set_ne hi hne (hzero.trans ?_)
  rw [Frame.ofNumber_number]
  exact ((residue f).mp hv).symm

/-! ### Responses -/

/-- What the reference answers is nothing, or a body that is not empty with its fresh checksum (R115). -/
theorem frameEffect_response (d : Device) (rs : Store) (f : Frame) :
    (frameEffect d.cfg rs f).2 = [] ∨ ∃ body, body ≠ [] ∧ (frameEffect d.cfg rs f).2 = appendChecksum body := by
  obtain ⟨-, -, -, hrun, hbasic, hnrun, hnbasic⟩ := d.facts
  by_cases hcrc : f.crcRx = crc16 f.body
  · have hframe : f.bytes = appendChecksum f.header.bytes := by
      rw [← frameOf_bytes, frameOf_of_valid ((frameValid_iff f).mpr hcrc)]
    have hbody : f.header.bytes ≠ [] := List.cons_ne_nil _ _
    rw [frameEffect, if_neg (not_not.mpr hcrc)]
    cases headerRow f.header with
    | readRun => exact .inr ⟨_, List.ne_nil_of_length_pos (by rw [length_runBody]; omega), rfl⟩
    | readBasic => exact .inr ⟨_, List.ne_nil_of_length_pos (by rw [length_basicBody]; omega), rfl⟩
    | writeRegOn | writeRegOff => exact .inr ⟨_, hbody, hframe⟩
    | writeRegIllegal => exact .inr ⟨_, List.cons_ne_nil _ _, exceptionFrame_const.symm⟩
    | unknown => exact .inl rfl
  · exact .inl (by rw [frameEffect, if_pos hcrc])

/-- Settles O13: a dispatch that waits leaves the empty transmit buffer, and one that is enabled loads the reference's
response. -/
theorem everyResponseEndsInItsChecksum : Obligations.EveryResponseEndsInItsChecksum := by
  intro s t c ch ch' rest hs hc ht h hc' hsent
  by_cases hlen : ch.rxbuf.length < 8
  · rw [step_dispatch_of_waiting hs hc (.inl hlen)] at h
    cases h
    cases hc.symm.trans hc'
    exact absurd ht hsent
  · obtain ⟨f, hr⟩ := exists_frame_of_length (Nat.not_lt.mp hlen)
    obtain ⟨acc, hstep⟩ := step_dispatch_of_enabled ⟨hs, hc, hr, ht⟩
    rw [hstep] at h
    cases h
    cases (afterDispatch_chan (s := { s with schedule := rest }) f _ acc hc).symm.trans hc'
    exact (frameEffect_response s.device s.rs f).resolve_left hsent

end Sys2Proof.Machine

/-! PROOFS. The family of the Register Store: what the host's setters write (R133, R135 to R139), the reserved codes (R140), and
which field of the store each of the two block responses shows (R143). -/

namespace Sys2Proof.Machine

/-! ### The host operations -/

/-- Settles O28: the meaning of each setter is its mutator, a write of one field. -/
theorem hostSettersWriteOneField : Obligations.HostSettersWriteOneField :=
  fun _ _ _ _ => ⟨rfl, rfl, rfl, rfl, rfl⟩

theorem decodeHost_six (w : Word) : decodeHost 6 w = .hreserved6 := rfl
theorem decodeHost_seven (w : Word) : decodeHost 7 w = .hreserved7 := rfl

/-- Settles O30: whatever the data, the codes decode to the two instructions, whose meaning is the identity. -/
theorem reservedCodesChangeNothing : Obligations.ReservedCodesChangeNothing := by
  intro s w
  rw [decodeHost_six, decodeHost_seven]
  exact ⟨rfl, rfl, rfl, rfl⟩

/-! ### Which fields a block response shows -/

/-- The basic response reads the two thresholds of the store and no other field (R155). -/
theorem basicBody_congr {rs rs' : Store} (cfg : Cfg) (hon : rs'.onThreshold = rs.onThreshold)
    (hoff : rs'.offThreshold = rs.offThreshold) : basicBody cfg rs' = basicBody cfg rs := by
  rw [basicBody, basicBody, basicPatches, basicPatches, hon, hoff]

/-- The run response reads the mode, the AC state and the battery voltage of the store and no other field (R154). -/
theorem runBody_congr {rs rs' : Store} (cfg : Cfg) (hmode : rs'.mode = rs.mode) (hac : rs'.acState = rs.acState)
    (hbat : rs'.batteryVoltage = rs.batteryVoltage) : runBody cfg rs' = runBody cfg rs := by
  have htel : rs'.currentTelemetry cfg = rs.currentTelemetry cfg := by
    rw [Store.currentTelemetry, Store.currentTelemetry, hmode]
  have hvolt : rs'.currentAcVoltage cfg = rs.currentAcVoltage cfg := by
    rw [Store.currentAcVoltage, Store.currentAcVoltage, hac]
  rw [runBody, runBody, runPatches, runPatches, htel, hvolt, hbat]

/-- One patch applied to two byte lists makes no difference at an index where there was none (R152). -/
theorem getElem?_patch_congr {hdr k : Nat} {blk : Block} {resp resp' : List Byte} (a v : Word)
    (h : resp'[k]? = resp[k]?) : (patch hdr blk resp' a v)[k]? = (patch hdr blk resp a v)[k]? := by
  unfold patch write16
  dsimp only
  split
  · simp only [List.getElem?_set', h]
  · exact h

/-- The battery voltage shows in the two bytes of its slot of the run block alone: its patch touches no other byte, and the
three other patches are the same (R154). -/
theorem getElem?_runBody_setBatteryVoltage {cfg : Cfg} {k : Nat} (rs : Store) (v : Word) (h0 : k ≠ cfg.hdrSize + 12)
    (h1 : k ≠ cfg.hdrSize + 13) : (runBody cfg (rs.setBatteryVoltage v))[k]? = (runBody cfg rs)[k]? := by
  have keep : ∀ (resp : List Byte) (w : Word),
      (patch cfg.hdrSize (runBlock cfg) resp Const.regBatVolt w)[k]? = resp[k]? :=
    fun resp w => getElem?_patch_of_ne resp w h0 h1
  exact getElem?_patch_congr Const.regAcVolt (rs.currentAcVoltage cfg) ((keep _ v).trans (keep _ rs.batteryVoltage).symm)

/-! ### Reads before and after a write of the store -/

section Reads

variable {s s₁ : State} {c d : Nat}

/-- A READ_BASIC after a change of the store that keeps the thresholds leaves its channel as it would have before. -/
theorem readBasic_of_same_thresholds {rs : Store} (hc : c < s.chans.length) (hon : rs.onThreshold = s.rs.onThreshold)
    (hoff : rs.offThreshold = s.rs.offThreshold) :
    ∃ t t₁, exec (.readBasic c) s = .next t ∧ exec (.readBasic c) (s.withStore rs) = .next t₁ ∧
      t₁.chans[c]? = t.chans[c]? := by
  have hch := List.getElem?_eq_getElem hc
  have hbody : basicBody s.cfg rs = basicBody s.cfg s.rs := basicBody_congr s.cfg hon hoff
  have hread : exec (.readBasic c) (s.withStore rs) = (s.withStore rs).respond c (basicBody s.cfg s.rs) :=
    congrArg ((s.withStore rs).respond c) hbody
  exact ⟨_, _, State.respond_eq _ hch, hread.trans (State.respond_eq _ hch), rfl⟩

/-- A READ_RUN completes on every channel the device has, and its response is pending there (R191, R197). -/
theorem readRun_completes (hc : c < s.chans.length) :
    ∃ t ch, exec (.readRun c) s = .next t ∧ t.chans[c]? = some ch ∧ ch.txbuf = appendChecksum (runBody s.cfg s.rs) := by
  have hch := List.getElem?_eq_getElem hc
  exact ⟨_, _, State.respond_eq _ hch, getElem?_set_chan_self hch _, rfl⟩

/-- A READ_RUN in a state of the same device that shows the same body has the same response. -/
theorem readRun_of_same_body (hc : c < s.chans.length) (hlen : s₁.chans.length = s.chans.length)
    (hbody : runBody s₁.cfg s₁.rs = runBody s.cfg s.rs) :
    ∃ t t₁, exec (.readRun c) s = .next t ∧ exec (.readRun c) s₁ = .next t₁ ∧
      t₁.chans[c]?.map Channel.txbuf = t.chans[c]?.map Channel.txbuf := by
  obtain ⟨t, ch, hread, hch, htx⟩ := readRun_completes hc
  obtain ⟨t₁, ch₁, hread₁, hch₁, htx₁⟩ := readRun_completes (s := s₁) (hlen.symm ▸ hc)
  refine ⟨t, t₁, hread, hread₁, ?_⟩
  rw [hch, hch₁, Option.map_some, Option.map_some, htx, htx₁, hbody]

theorem Store.setThreshold_keeps (rs : Store) (a v : Word) :
    (rs.setThreshold a v).mode = rs.mode ∧ (rs.setThreshold a v).acState = rs.acState ∧
    (rs.setThreshold a v).batteryVoltage = rs.batteryVoltage := by
  unfold Store.setThreshold
  split <;> exact ⟨rfl, rfl, rfl⟩

/-- Every threshold write, from the host or over the wire, completes and sets one threshold (R138, R139, R207, R210). -/
theorem exec_thresholdWrite {i : Instr} {v : Word} (hd : d < s.chans.length)
    (hi : i ∈ [Instr.hsetOn v, .hsetOff v, .writeRegOn d v, .writeRegOff d v, .writeReg d 0x1037 v, .writeReg d 0x1038 v]) :
    ∃ a s₁, exec i s = .next s₁ ∧ s₁.rs = s.rs.setThreshold a v ∧ s₁.device = s.device ∧
      s₁.chans.length = s.chans.length := by
  simp only [List.mem_cons, List.not_mem_nil, or_false] at hi
  rcases hi with rfl | rfl | rfl | rfl | rfl | rfl
  · exact ⟨Const.regOnThr, _, rfl, rfl, rfl, rfl⟩
  · exact ⟨Const.regOffThr, _, rfl, rfl, rfl, rfl⟩
  · exact ⟨_, exec_acceptedWrite_completes (.inl ⟨rfl, .inl rfl⟩) hd⟩
  · exact ⟨_, exec_acceptedWrite_completes (.inr ⟨rfl, .inl rfl⟩) hd⟩
  · exact ⟨_, exec_acceptedWrite_completes (.inl ⟨rfl, .inr rfl⟩) hd⟩
  · exact ⟨_, exec_acceptedWrite_completes (.inr ⟨rfl, .inr rfl⟩) hd⟩

end Reads

/-- Settles O59: no field of the store stands in both block responses, and the battery voltage stands in one slot of one. -/
theorem modeIsolation : Obligations.ModeIsolation := by
  intro s c d m a v hc hd
  refine ⟨fun i hi => ?_, fun i hi => ?_, ?_⟩
  · simp only [List.mem_cons, List.not_mem_nil, or_false] at hi
    rcases hi with rfl | rfl
    · obtain ⟨t, t₁, hreads⟩ := readBasic_of_same_thresholds (rs := s.rs.setMode m) hc rfl rfl
      exact ⟨_, t, t₁, rfl, rfl, rfl, rfl, hreads⟩
    · obtain ⟨t, t₁, hreads⟩ := readBasic_of_same_thresholds (rs := s.rs.setAcState a) hc rfl rfl
      exact ⟨_, t, t₁, rfl, rfl, rfl, rfl, hreads⟩
  · obtain ⟨r, s₁, hexec, hrs, hdev, hlen⟩ := exec_thresholdWrite hd hi
    obtain ⟨hmode, hac, hbat⟩ := hrs ▸ Store.setThreshold_keeps s.rs r v
    have hbody : runBody s₁.cfg s₁.rs = runBody s.cfg s.rs := by
      rw [State.cfg, hdev]
      exact runBody_congr s.cfg hmode hac hbat
    obtain ⟨t, t₁, hreads⟩ := readRun_of_same_body hc hlen hbody
    exact ⟨s₁, t, t₁, hexec, hmode, hac, hbat, hreads⟩
  · obtain ⟨t, ch, hread, hch, htx⟩ := readRun_completes hc
    obtain ⟨t₁, ch₁, hread₁, hch₁, htx₁⟩ := readRun_completes (s := s.withStore (s.rs.setBatteryVoltage v)) hc
    refine ⟨_, t, t₁, ch, ch₁, rfl, hread, hread₁, hch, hch₁, ?_, fun k hk h0 h1 => ?_⟩
    · rw [htx, htx₁, length_appendChecksum, length_appendChecksum, length_runBody, length_runBody]
      rfl
    · have inBody : ∀ rs : Store, (appendChecksum (runBody s.cfg rs))[k]? = (runBody s.cfg rs)[k]? :=
        fun rs => List.getElem?_append_left ((length_runBody s.cfg rs).symm ▸ hk)
      rw [htx, htx₁, inBody]
      exact (inBody _).trans (getElem?_runBody_setBatteryVoltage s.rs v h0 h1)

end Sys2Proof.Machine

/-! PROOFS. The family of the response synthesizer: which bytes a patch writes (R151 to R153), when the order of patches matters
(R157), the index in 16-bit hardware (R152), and the structured form of the unit (R158). -/

namespace Sys2Proof.Machine

section Patching

variable {hdr : Nat} {blk : Block} {a b : Word}

/-! ### One patch -/

/-- A patch of an address outside the block is skipped (R153). -/
theorem patch_of_outside (resp : List Byte) (v : Word)
    (h : a.toNat < blk.base.toNat ∨ blk.base.toNat + blk.nregs ≤ a.toNat) : patch hdr blk resp a v = resp := by
  rcases patch_cases hdr blk resp a v with hskip | ⟨hlo, hhi, -⟩
  · exact hskip
  · omega

theorem getElem?_write16_hi {resp : List Byte} {o : Nat} (v : Word) (ho : o < resp.length) :
    (write16 resp o v)[o]? = some (hi8 v) := by
  rw [write16, List.getElem?_set_ne (by omega), List.getElem?_set_self ho]

theorem getElem?_write16_lo {resp : List Byte} {o : Nat} (v : Word) (ho : o + 1 < resp.length) :
    (write16 resp o v)[o + 1]? = some (lo8 v) := by
  rw [write16, List.getElem?_set_self (by rwa [List.length_set])]

/-! ### Two patches -/

/-- A second write at the same offset replaces the first. -/
theorem write16_write16_self (resp : List Byte) (o : Nat) (v w : Word) :
    write16 (write16 resp o v) o w = write16 resp o w := by
  unfold write16
  rw [List.set_comm (lo8 v) (hi8 w) (show o + 1 ≠ o by omega), List.set_set, List.set_set]

/-- Writes at offsets that do not overlap commute. -/
theorem write16_comm (resp : List Byte) {o o' : Nat} (v w : Word) (h : o + 2 ≤ o' ∨ o' + 2 ≤ o) :
    write16 (write16 resp o v) o' w = write16 (write16 resp o' w) o v := by
  have set_write16 : ∀ (bytes : List Byte) (k : Nat) (x : Byte), k ≠ o → k ≠ o + 1 →
      (write16 bytes o v).set k x = write16 (bytes.set k x) o v := by
    intro bytes k x h0 h1
    rw [write16, List.set_comm _ _ h1.symm, List.set_comm _ _ h0.symm, write16]
  calc write16 (write16 resp o v) o' w
      = ((write16 resp o v).set o' (hi8 w)).set (o' + 1) (lo8 w) := rfl
    _ = write16 ((resp.set o' (hi8 w)).set (o' + 1) (lo8 w)) o v := by
      rw [set_write16 _ _ _ (by omega) (by omega), set_write16 _ _ _ (by omega) (by omega)]

/-- Of two patches of one address in a row the later value stands (R157). -/
theorem patch_patch_self (resp : List Byte) (v w : Word) :
    patch hdr blk (patch hdr blk resp a v) a w = patch hdr blk resp a w := by
  by_cases hin : blk.base.toNat ≤ a.toNat ∧ a.toNat < blk.base.toNat + blk.nregs
  · obtain ⟨hlo, hhi⟩ := hin
    rw [patch_of_mem _ _ hlo hhi, patch_of_mem _ _ hlo hhi, patch_of_mem _ _ hlo hhi, write16_write16_self]
  · rw [patch_of_outside resp v (by omega)]

/-- Patches of different addresses commute: their slots do not overlap, or one of them is skipped (R157). -/
theorem patch_comm (resp : List Byte) (v w : Word) (hab : a ≠ b) :
    patch hdr blk (patch hdr blk resp a v) b w = patch hdr blk (patch hdr blk resp b w) a v := by
  by_cases hina : blk.base.toNat ≤ a.toNat ∧ a.toNat < blk.base.toNat + blk.nregs
  · by_cases hinb : blk.base.toNat ≤ b.toNat ∧ b.toNat < blk.base.toNat + blk.nregs
    · obtain ⟨hloa, hhia⟩ := hina
      obtain ⟨hlob, hhib⟩ := hinb
      have hne : a.toNat ≠ b.toNat := fun e => hab (BitVec.eq_of_toNat_eq e)
      rw [patch_of_mem resp v hloa hhia, patch_of_mem resp w hlob hhib, patch_of_mem _ w hlob hhib,
        patch_of_mem _ v hloa hhia]
      apply write16_comm
      unfold slotOffset
      omega
    · have hskip : ∀ r : List Byte, patch hdr blk r b w = r := fun r => patch_of_outside r w (by omega)
      rw [hskip, hskip]
  · have hskip : ∀ r : List Byte, patch hdr blk r a v = r := fun r => patch_of_outside r v (by omega)
    rw [hskip, hskip]

/-! ### Patch lists -/

/-- Two patches of a list with distinct addresses commute, also when they are the same patch (R157). -/
theorem patch_right_comm_of_nodup {ps : List (Word × Word)} (hnodup : (ps.map (·.1)).Nodup) :
    ∀ p ∈ ps, ∀ q ∈ ps, ∀ resp : List Byte,
      patch hdr blk (patch hdr blk resp p.1 p.2) q.1 q.2 = patch hdr blk (patch hdr blk resp q.1 q.2) p.1 p.2 := by
  intro p hp q hq resp
  by_cases hpq : p.1 = q.1
  · rw [List.inj_on_of_nodup_map hnodup hp hq hpq]
  · exact patch_comm resp p.2 q.2 hpq

/-- A patch before a list that patches its address again leaves no trace: it moves past the other addresses up to the patch
that replaces it (R157). -/
theorem foldl_patch_of_mem (qs : List (Word × Word)) (resp : List Byte) (v : Word) (h : a ∈ qs.map (·.1)) :
    qs.foldl (fun r p => patch hdr blk r p.1 p.2) (patch hdr blk resp a v) =
      qs.foldl (fun r p => patch hdr blk r p.1 p.2) resp := by
  induction qs generalizing resp with
  | nil => cases h
  | cons q qs ih =>
    rw [List.foldl_cons, List.foldl_cons]
    by_cases haq : a = q.1
    · rw [haq, patch_patch_self]
    · have htail : a ∈ qs.map (·.1) := (List.mem_cons.mp h).resolve_left haq
      rw [patch_comm resp v q.2 haq, ih _ htail]

/-- The patches of the second part apply to the copy that those of the first have patched (R150). -/
theorem buildResponse_append (before after : List (Word × Word)) :
    buildResponse hdr blk (before ++ after) = appendChecksum
      (after.foldl (fun r p => patch hdr blk r p.1 p.2) (patchAll hdr blk before)) := by
  rw [buildResponse, patchAll, List.foldl_append, patchAll]

end Patching

/-- Settles O14: a patch in range is one write at the offset of its slot, and every other patch is skipped. -/
theorem patchWritesItsSlotOnly : Obligations.PatchWritesItsSlotOnly := by
  intro hdr blk resp a v hlen
  refine ⟨length_patch hdr blk resp a v, fun i ha hi => ?_, patch_of_outside resp v⟩
  have hslot : slotOffset hdr (a.toNat - blk.base.toNat) = hdr + 2 * i := by unfold slotOffset; omega
  have hwrite := patch_of_mem (hdr := hdr) (blk := blk) (a := a) resp v (by omega) (by omega)
  rw [hslot] at hwrite
  refine ⟨?_, ?_, fun k h0 h1 => ?_⟩
  · rw [hwrite, getElem?_write16_hi v (by omega)]
  · rw [hwrite, getElem?_write16_lo v (by omega)]
  · rw [← hslot] at h0 h1
    exact getElem?_patch_of_ne resp v h0 h1

/-- Settles O15: the step of the fold that the patch stands for is the identity. -/
theorem outOfRangePatchIsSkipped : Obligations.OutOfRangePatchIsSkipped := by
  intro hdr blk before after a v h
  rw [buildResponse_append, buildResponse_append, List.foldl_cons, patch_of_outside _ v h]

/-- Settles O16: patches of different addresses commute, and a patch is replaced by the next one of its address. -/
theorem patchOrderMattersOnlyForDuplicates : Obligations.PatchOrderMattersOnlyForDuplicates := by
  refine ⟨fun hdr blk ps qs hperm hnodup => ?_, fun hdr blk ps qs a v ha => ?_, fun cfg rs => ⟨?_, ?_⟩⟩
  · rw [buildResponse, buildResponse, patchAll, patchAll,
      hperm.foldl_eq' (patch_right_comm_of_nodup hnodup)]
  · rw [buildResponse_append, buildResponse_append, List.foldl_cons, foldl_patch_of_mem qs _ v ha]
  · change [Const.regPvVolt, Const.regPvPower, Const.regBatVolt, Const.regAcVolt].Nodup
    decide
  · change [Const.regOnThr, Const.regOffThr].Nodup
    decide

/-! ### The index in 16-bit hardware -/

/-- The difference from the base wraps to a number past every slot for an address below the base, as long as the block ends
within the register addresses (R152). -/
theorem toNat_sub_base_lt_iff {blk : Block} (a : Word) (hend : blk.base.toNat + blk.nregs ≤ 2 ^ 16) :
    (a - blk.base).toNat < blk.nregs ↔ blk.base.toNat ≤ a.toNat ∧ a.toNat < blk.base.toNat + blk.nregs := by
  have ha := a.isLt
  by_cases hle : blk.base.toNat ≤ a.toNat
  · rw [BitVec.toNat_sub_of_le (BitVec.le_def.mpr hle)]
    omega
  · rw [BitVec.toNat_sub_of_lt (BitVec.lt_def.mpr (by omega))]
    omega

theorem slotIndex_nonneg_iff (blk : Block) (a : Word) : 0 ≤ slotIndex blk a ↔ blk.base.toNat ≤ a.toNat := by
  unfold slotIndex
  omega

theorem slotIndex_lt_iff (blk : Block) (a : Word) :
    slotIndex blk a < blk.nregs ↔ a.toNat < blk.base.toNat + blk.nregs := by
  unfold slotIndex
  omega

/-- Settles O17: both blocks end within the register addresses, since neither base exceeds `0x1024`. -/
theorem wrappedIndexCompareIsTheRangeTest : Obligations.WrappedIndexCompareIsTheRangeTest := by
  intro cfg blk a hblk hn
  have hbase : blk.base.toNat ≤ 0x1024 := by
    rcases hblk with rfl | rfl
    · exact (by decide : Const.baseRun.toNat ≤ 0x1024)
    · exact (by decide : Const.baseBasic.toNat ≤ 0x1024)
  constructor
  · rw [slotIndex_nonneg_iff, slotIndex_lt_iff, toNat_sub_base_lt_iff a (by omega)]
  · intro hnonneg _
    have hle := (slotIndex_nonneg_iff blk a).mp hnonneg
    rw [slotIndex_of_le hle, BitVec.toNat_sub_of_le (BitVec.le_def.mpr hle)]

/-! ### The structured form -/

/-- The slot values laid out as `serialise` does, high byte first (R158). -/
def slotBytes (slots : List Word) : List Byte := slots.flatMap fun v => [hi8 v, lo8 v]

theorem slotBytes_cons (v : Word) (slots : List Word) :
    slotBytes (v :: slots) = hi8 v :: lo8 v :: slotBytes slots := rfl

theorem serialise_eq (header : List Byte) (slots : List Word) :
    serialise header slots = appendChecksum (header ++ slotBytes slots) := rfl

/-- Replacing a slot value is writing its two bytes in the layout. -/
theorem slotBytes_set (slots : List Word) (i : Nat) (v : Word) :
    slotBytes (slots.set i v) = write16 (slotBytes slots) (2 * i) v := by
  induction slots generalizing i with
  | nil => rfl
  | cons x xs ih =>
    cases i with
    | zero => rfl
    | succ i =>
      rw [List.set_cons_succ, slotBytes_cons, slotBytes_cons, ih]
      rfl

theorem write16_append (header bytes : List Byte) (o : Nat) (v : Word) :
    write16 (header ++ bytes) (header.length + o) v = header ++ write16 bytes o v := by
  rw [write16, write16, List.set_append_right _ _ (by omega), List.set_append_right _ _ (by omega),
    Nat.add_assoc, Nat.add_sub_cancel_left, Nat.add_sub_cancel_left]

theorem slotOffset_succ (o i : Nat) : slotOffset o (i + 1) = slotOffset (o + 2) i := by
  unfold slotOffset
  omega

/-- The values read from `n` slots at offset `o`, laid out again, are the bytes from there on. -/
theorem slotBytes_map_read16 (bytes : List Byte) (n o : Nat) (hlen : bytes.length = o + 2 * n) :
    slotBytes ((List.range n).map fun i => read16 bytes (slotOffset o i)) = bytes.drop o := by
  induction n generalizing o with
  | zero => rw [List.drop_of_length_le (by omega)]; rfl
  | succ n ih =>
    have hrest := ih (o + 2) (by omega)
    rw [List.range_succ_eq_map, List.map_cons, List.map_map, slotBytes_cons]
    simp only [Function.comp_def, Nat.succ_eq_add_one, slotOffset_succ, hrest]
    rw [List.drop_eq_getElem_cons (show o < bytes.length by omega),
      List.drop_eq_getElem_cons (show o + 1 < bytes.length by omega)]
    simp [read16, slotOffset, List.getD, show o < bytes.length by omega, show o + 1 < bytes.length by omega]

/-- A template is its header and its slots laid out (R158). -/
theorem blockHeader_append_blockSlots {hdr : Nat} {blk : Block} (hlen : blk.tpl.length = hdr + 2 * blk.nregs) :
    blockHeader hdr blk ++ slotBytes (blockSlots hdr blk) = blk.tpl := by
  rw [blockHeader, blockSlots, slotBytes_map_read16 _ _ _ hlen, List.take_append_drop]

theorem length_patchSlots (blk : Block) (slots : List Word) (a v : Word) :
    (patchSlots blk slots a v).length = slots.length := by
  unfold patchSlots
  dsimp only
  split
  · exact List.length_set
  · rfl

/-- A patch of the raw bytes is the patch of the slot list (R152, R158). An index past the last slot is skipped by the range
test of the one, and by the slot that is not there of the other. -/
theorem patch_header_append_slotBytes {blk : Block} (header : List Byte) {slots : List Word} (a v : Word)
    (hslots : slots.length = blk.nregs) :
    patch header.length blk (header ++ slotBytes slots) a v = header ++ slotBytes (patchSlots blk slots a v) := by
  unfold patchSlots
  dsimp only
  by_cases hlo : blk.base.toNat ≤ a.toNat
  · rw [if_pos ((slotIndex_nonneg_iff blk a).mpr hlo), slotIndex_of_le hlo, Int.toNat_natCast]
    by_cases hhi : a.toNat < blk.base.toNat + blk.nregs
    · rw [patch_of_mem _ v hlo hhi, slotOffset, write16_append, slotBytes_set]
    · rw [patch_of_outside _ v (by omega), List.set_eq_of_length_le (by omega)]
  · rw [if_neg (hlo ∘ (slotIndex_nonneg_iff blk a).mp), patch_of_outside _ v (by omega)]

/-- Patching the raw bytes and patching the slot list stay in step over a patch list. -/
theorem foldl_patch_header_append_slotBytes {blk : Block} (header : List Byte) (patches : List (Word × Word))
    {slots : List Word} (hslots : slots.length = blk.nregs) :
    patches.foldl (fun r p => patch header.length blk r p.1 p.2) (header ++ slotBytes slots) =
      header ++ slotBytes (patches.foldl (fun ss p => patchSlots blk ss p.1 p.2) slots) := by
  induction patches generalizing slots with
  | nil => rfl
  | cons p patches ih =>
    rw [List.foldl_cons, List.foldl_cons, patch_header_append_slotBytes header p.1 p.2 hslots,
      ih ((length_patchSlots ..).trans hslots)]

/-- Settles O18: the template is its header and slots laid out, and every patch keeps the two forms in step. -/
theorem structuredFormGivesTheSameBytes : Obligations.StructuredFormGivesTheSameBytes := by
  intro hdr blk patches hlen
  have hheader : (blockHeader hdr blk).length = hdr := by
    rw [blockHeader, List.length_take]
    omega
  have hslots : (blockSlots hdr blk).length = blk.nregs := by
    rw [blockSlots, List.length_map, List.length_range]
  have hfold := foldl_patch_header_append_slotBytes (blockHeader hdr blk) patches hslots
  rw [hheader, blockHeader_append_blockSlots hlen] at hfold
  rw [structuredResponse, serialise_eq, ← hfold, buildResponse, patchAll]

end Sys2Proof.Machine

/-! PROOFS. The family of the frame reader: what a clear does to the buffers of its channel, and what it leaves (R176). -/

namespace Sys2Proof.Machine

/-- A clear turn empties both buffers of its channel and is used up; its accumulator stays (R176). -/
theorem step_clear {s : State} {c : Nat} {ch : Channel} {rest : List Turn} (hs : s.schedule = .clear c :: rest)
    (hc : s.chans[c]? = some ch) :
    step s = .next { s with schedule := rest, chans := s.chans.set c { ch with rxbuf := [], txbuf := [] } } :=
  (step_turn hs).trans (State.clearChannel_eq (s := { s with schedule := rest }) hc)

/-- Settles O39, from the equation of a clear step; the other channels are kept because they are isolated (O48). -/
theorem clearEmptiesItsChannelOnly : Obligations.ClearEmptiesItsChannelOnly := by
  intro s c ch rest hs hc
  have hstep := step_clear hs hc
  have hothers : ∀ d, d ≠ c → (s.chans.set c { ch with rxbuf := [], txbuf := [] })[d]? = s.chans[d]? := fun d hd =>
    channelsAreIsolated s _ _ rest d hs Turn.noConfusion (fun hcd => hd (Option.some.inj hcd).symm) hstep
  exact ⟨_, _, hstep, getElem?_set_chan_self hc _, rfl, rfl, List.length_set, hothers, rfl, rfl, rfl⟩

end Sys2Proof.Machine

/-! PROOFS. The family of the dispatcher: the progress of every turn on a channel the device has (R221), the frames
answered by silence (R188, R194), and the opcode table read as the classifier's own tests (R85, R101, R190, R200). -/

namespace Sys2Proof.Machine

/-! ### No turn stops the engine -/

section Progress

variable {s t : State} {u : Turn}

theorem State.portsExist_iff (s : State) :
    s.portsExist = true ↔ ∀ u ∈ s.schedule, ∀ c, u.channel = some c → c < s.cfg.nChan := by
  rw [State.portsExist, List.all_eq_true]
  refine forall₂_congr fun u _ => ?_
  cases u.channel <;> simp

/-- The turns that are left name existing channels when all of them did (R7). -/
theorem State.portsExist_of_tail (hp : s.portsExist = true) (hd : t.device = s.device)
    (ht : t.schedule = s.schedule.tail) : t.portsExist = true := by
  rw [State.portsExist_iff] at hp ⊢
  intro u hu c hc
  rw [ht] at hu
  rw [State.cfg, hd]
  exact hp u (List.mem_of_mem_tail hu) c hc

/-- Under the invariant the channel numbers below `NCHAN` are those of channels (R20). -/
theorem State.exists_chan_of_inv {c : Nat} (hi : s.inv = true) (hc : c < s.cfg.nChan) : ∃ ch, s.chans[c]? = some ch := by
  obtain ⟨hlen, -⟩ := (State.inv_iff s).mp hi
  exact ⟨_, List.getElem?_eq_getElem (hlen ▸ hc)⟩

/-- Only the channel's absence keeps a dispatch turn from a next state: it waits, or it runs whatever eight bytes stand at the
head of the buffer (R186, R221). -/
theorem exists_dispatchTurn {c : Nat} {ch : Channel} (hc : s.chans[c]? = some ch) : ∃ t, dispatchTurn c s = .next t := by
  rcases s.fetch_cases c with ⟨habsent, -⟩ | ⟨ch', hc', hwait, -⟩ | ⟨ch', f, tail, hc', hr, ht, -⟩
  · cases hc.symm.trans habsent
  · exact ⟨s, dispatchTurn_notEnabled hc' hwait⟩
  · obtain ⟨acc, h⟩ := dispatchTurn_eq hc' hr ht
    exact ⟨_, h⟩

theorem exists_transmit {c : Nat} {ch : Channel} (hc : s.chans[c]? = some ch) : ∃ t, s.transmit c = .next t := by
  cases ht : ch.txbuf with
  | nil => exact ⟨s, State.transmit_idle hc ht⟩
  | cons b more => exact ⟨_, State.transmit_byte hc ht⟩

/-- Every turn gives a next state where its channel, if it has one, exists (R221). -/
theorem exists_takeTurn (hu : ∀ c, u.channel = some c → ∃ ch, s.chans[c]? = some ch) : ∃ t, takeTurn u s = .next t := by
  cases u with
  | rx c b =>
    obtain ⟨ch, hc⟩ := hu c rfl
    exact ⟨_, State.receive_eq b hc⟩
  | dispatch c =>
    obtain ⟨ch, hc⟩ := hu c rfl
    exact exists_dispatchTurn hc
  | tx c =>
    obtain ⟨ch, hc⟩ := hu c rfl
    exact exists_transmit hc
  | clear c =>
    obtain ⟨ch, hc⟩ := hu c rfl
    exact ⟨_, State.clearChannel_eq hc⟩
  | host op w =>
    obtain ⟨rs, outs, h⟩ := hostTurn_eq op w s
    exact ⟨_, h⟩
  | reset => exact ⟨_, rfl⟩

theorem exists_step (hi : s.inv = true) (hp : s.portsExist = true) : ∃ t, step s = .next t := by
  cases hs : s.schedule with
  | nil => exact ⟨s, step_idle hs⟩
  | cons u rest =>
    rw [step_turn hs]
    refine exists_takeTurn fun c hc => ?_
    have hlt : c < s.cfg.nChan := (State.portsExist_iff s).mp hp u (hs ▸ List.mem_cons_self) c hc
    exact State.exists_chan_of_inv hi hlt

end Progress

/-- Settles O45: the step exists, it keeps the invariant (O43), and it keeps the configuration and only uses up a turn (O44). -/
theorem noTurnStopsTheEngine : Obligations.NoTurnStopsTheEngine := by
  intro s hi hp
  obtain ⟨t, hstep⟩ := exists_step hi hp
  obtain ⟨hdev, hsched, -⟩ := stepKeepsConfigurationAndUsesUpItsTurn s t hstep
  exact ⟨t, hstep, everyStepKeepsTheInvariant s t hi hstep, State.portsExist_of_tail hp hdev hsched⟩

/-! ### Silence -/

/-- Settles O25: both rows drop their frame, UNKNOWN the checksum-valid frame of its header. -/
theorem droppedFramesAreAnsweredBySilence : Obligations.DroppedFramesAreAnsweredBySilence := by
  intro s c ch hc
  refine ⟨fun f => State.drop_eq .crcError f hc, fun h => ?_⟩
  exact ⟨frameOf h, frameOf_header h, frameValid_frameOf h, State.drop_eq .unknown (frameOf h) hc⟩

end Sys2Proof.Machine

namespace Sys2Proof

open Machine

/-! ### The opcode table as tests on the header's fields -/

section Table

variable {h g : Header} {u fn : Byte} {a v : Word}

theorem Header.number_inj : h.number = g.number ↔ h = g :=
  ⟨fun e => by rw [← h.ofNumber_number, e, g.ofNumber_number], congrArg Header.number⟩

theorem Header.eq_ofFields_iff :
    h = .ofFields u fn a v ↔ h.unitAddress = u ∧ h.functionCode = fn ∧ h.start = a ∧ h.qty = v := by
  constructor
  · rintro rfl
    exact ⟨rfl, rfl, Header.start_ofFields .., Header.qty_ofFields ..⟩
  · rintro ⟨rfl, rfl, rfl, rfl⟩
    exact h.ofFields_eta.symm

theorem Header.ofFields_inj {u' fn' : Byte} {a' v' : Word} :
    Header.ofFields u fn a v = .ofFields u' fn' a' v' ↔ u = u' ∧ fn = fn' ∧ a = a' ∧ v = v' := by
  rw [Header.eq_ofFields_iff, Header.unit_ofFields, Header.fn_ofFields, Header.start_ofFields, Header.qty_ofFields]

/-- A mask applies to a header number byte by byte (R81, R85). -/
theorem Header.number_and (h m : Header) :
    h.number &&& m.number = Header.number
      ⟨h.unitAddress &&& m.unitAddress, h.functionCode &&& m.functionCode, h.startAddrHi &&& m.startAddrHi,
        h.startAddrLo &&& m.startAddrLo, h.quantityHi &&& m.quantityHi, h.quantityLo &&& m.quantityLo⟩ := by
  unfold Header.number
  iterate 4 refine BitVec.and_append.trans (congrArg (· ++ _) ?_)
  exact BitVec.and_append

/-- The mask of the first four bytes keeps every field but the quantity (R85). -/
theorem Header.number_and_start (h : Header) :
    h.number &&& 0xFFFFFFFF0000 = (Header.ofFields h.unitAddress h.functionCode h.start 0).number := by
  refine (h.number_and ⟨.allOnes 8, .allOnes 8, .allOnes 8, .allOnes 8, 0#8, 0#8⟩).trans (congrArg Header.number ?_)
  simp only [BitVec.and_allOnes, BitVec.and_zero, Header.ofFields, Header.start, hi8_be16, lo8_be16]
  rfl

/-- The mask of the first two bytes keeps the unit address and the function code (R85). -/
theorem Header.number_and_fn (h : Header) :
    h.number &&& 0xFFFF00000000 = (Header.ofFields h.unitAddress h.functionCode 0 0).number := by
  refine (h.number_and ⟨.allOnes 8, .allOnes 8, 0#8, 0#8, 0#8, 0#8⟩).trans (congrArg Header.number ?_)
  simp only [BitVec.and_allOnes, BitVec.and_zero, Header.ofFields]
  rfl

/-- A full mask admits one header (R85). -/
theorem Signature.fits_full (row : DecodeRow) (k : Nat) :
    Signature.fits ⟨row, (Header.ofFields u fn a v).number, 0xFFFFFFFFFFFF, k⟩ h.number =
      decide (h.unitAddress = u ∧ h.functionCode = fn ∧ h.start = a ∧ h.qty = v) := by
  have hmask : h.number &&& 0xFFFFFFFFFFFF = h.number := BitVec.and_allOnes
  rw [Signature.fits, hmask, Bool.eq_iff_iff, beq_iff_eq, Header.number_inj, Header.eq_ofFields_iff, decide_eq_true_iff]

/-- The first four bytes fixed leave the quantity free (R87). -/
theorem Signature.fits_start (row : DecodeRow) (k : Nat) :
    Signature.fits ⟨row, (Header.ofFields u fn a 0).number, 0xFFFFFFFF0000, k⟩ h.number =
      decide (h.unitAddress = u ∧ h.functionCode = fn ∧ h.start = a) := by
  rw [Signature.fits, Header.number_and_start, Bool.eq_iff_iff, beq_iff_eq, Header.number_inj, Header.ofFields_inj,
    decide_eq_true_iff]
  simp

/-- The first two bytes fixed leave the register and the value free (R87). -/
theorem Signature.fits_fn (row : DecodeRow) (k : Nat) :
    Signature.fits ⟨row, (Header.ofFields u fn 0 0).number, 0xFFFF00000000, k⟩ h.number =
      decide (h.unitAddress = u ∧ h.functionCode = fn) := by
  rw [Signature.fits, Header.number_and_fn, Bool.eq_iff_iff, beq_iff_eq, Header.number_inj, Header.ofFields_inj,
    decide_eq_true_iff]
  simp

/-- The mask of no byte admits every header (R85). -/
theorem Signature.fits_of_mask_zero (row : DecodeRow) (k : Nat) (n : BitVec 48) : Signature.fits ⟨row, 0, 0, k⟩ n = true :=
  beq_iff_eq.mpr BitVec.and_zero

/-- The patterns of the table are the numbers of request headers, with zeros where the mask leaves a field open (R86, R87). -/
theorem signatures_eq :
    signatures =
      [⟨.readRun, (Header.ofFields Const.unitAddr Const.fnReadRun Const.baseRun Const.qtyRun).number, 0xFFFFFFFFFFFF, 1⟩,
       ⟨.readBasic, (Header.ofFields Const.unitAddr Const.fnReadBasic Const.baseBasic Const.qtyBasic).number,
        0xFFFFFFFFFFFF, 1⟩,
       ⟨.writeRegOn, (Header.ofFields Const.unitAddr Const.fnWrite Const.regOnThr 0).number, 0xFFFFFFFF0000, 1⟩,
       ⟨.writeRegOff, (Header.ofFields Const.unitAddr Const.fnWrite Const.regOffThr 0).number, 0xFFFFFFFF0000, 1⟩,
       ⟨.writeRegIllegal, (Header.ofFields Const.unitAddr Const.fnWrite 0 0).number, 0xFFFF00000000, 2⟩,
       ⟨.unknown, 0, 0, 3⟩] := by decide

/-- A search of a nonempty table answers its first row if that fits, and otherwise what a search of the other rows does. -/
theorem find?_fits_cons (g : Signature) (gs : List Signature) (n : BitVec 48) :
    ((g :: gs).find? (·.fits n)) = if g.fits n = true then some g else gs.find? (·.fits n) := by
  rw [List.find?_cons]
  cases g.fits n <;> rfl

/-- The table searched row by row, each row a test on the header's fields (R101). -/
theorem tableRow_number (h : Header) :
    tableRow h.number =
      if h.unitAddress = Const.unitAddr ∧ h.functionCode = Const.fnReadRun ∧ h.start = Const.baseRun ∧
        h.qty = Const.qtyRun then .readRun
      else if h.unitAddress = Const.unitAddr ∧ h.functionCode = Const.fnReadBasic ∧ h.start = Const.baseBasic ∧
        h.qty = Const.qtyBasic then .readBasic
      else if h.unitAddress = Const.unitAddr ∧ h.functionCode = Const.fnWrite ∧ h.start = Const.regOnThr then .writeRegOn
      else if h.unitAddress = Const.unitAddr ∧ h.functionCode = Const.fnWrite ∧ h.start = Const.regOffThr then .writeRegOff
      else if h.unitAddress = Const.unitAddr ∧ h.functionCode = Const.fnWrite then .writeRegIllegal
      else .unknown := by
  rw [tableRow, signatures_eq]
  simp only [find?_fits_cons, Signature.fits_full, Signature.fits_start, Signature.fits_fn, Signature.fits_of_mask_zero,
    decide_eq_true_eq, if_true]
  split_ifs <;> rfl

end Table

/-- Settles O5, along the classifier's tests: the table asks the same, with the write target's two tests before the class's. -/
theorem tableLookupAgreesWithClassifier : Obligations.TableLookupAgreesWithClassifier := by
  intro h
  rw [tableRow_number, headerRow, classify]
  by_cases hrun : h.unitAddress = Const.unitAddr ∧ h.functionCode = Const.fnReadRun ∧ h.start = Const.baseRun ∧
      h.qty = Const.qtyRun
  · rw [if_pos hrun, if_pos hrun]
  by_cases hbasic : h.unitAddress = Const.unitAddr ∧ h.functionCode = Const.fnReadBasic ∧ h.start = Const.baseBasic ∧
      h.qty = Const.qtyBasic
  · rw [if_neg hrun, if_neg hrun, if_pos hbasic, if_pos hbasic]
  rw [if_neg hrun, if_neg hrun, if_neg hbasic, if_neg hbasic]
  by_cases hwrite : h.unitAddress = Const.unitAddr ∧ h.functionCode = Const.fnWrite
  · simp only [hwrite, true_and, and_true, if_true]
  · simp only [← and_assoc, hwrite, false_and, if_false]

end Sys2Proof

/-! PROOFS. The family of the write handler: a write to a threshold's register stores its value and is answered by its echo
(R207, R210, R211), and a write to any other register takes the exception (R208, R209, R223). -/

namespace Sys2Proof.Machine

/-! ### A write to a register that is not writable -/

/-- The sub-row of an illegal write, and the class row at an address that is not writable, take the exception (R206, R208). -/
theorem exec_illegalWrite {i : Instr} {c : Nat} {a v : Word} (hi : i = .writeRegIllegal c a v ∨ i = .writeReg c a v)
    (hon : a ≠ Const.regOnThr) (hoff : a ≠ Const.regOffThr) (s : State) :
    exec i s = s.raiseIllegalDataAddress c (.write a v) := by
  rcases hi with rfl | rfl
  · rfl
  · rw [exec_writeReg, if_neg hon, if_neg hoff]

/-- The exception is a delivery of its frame after its event, and completes on every channel that exists (R222, R223). -/
theorem State.raiseIllegalDataAddress_respondedWith {s : State} {c : Nat} {ch : Channel} (h : Header)
    (hc : s.chans[c]? = some ch) :
    ∃ t, s.raiseIllegalDataAddress c h = .next t ∧
      respondedWith s t c ch (exceptionBody h.unitAddress h.functionCode) ∧ t.rs = s.rs ∧
      t.outputs = s.outputs ++ [.event c .illegalAddress (frameOf h)] :=
  State.respond_respondedWith (s := s.emit (.event c .illegalAddress (frameOf h))) _ hc

/-- A channel that has been given a response holds the body with its checksum as its whole transmit buffer (R115, R197). -/
theorem respondedWith_txbuf {s t : State} {c : Nat} {ch ch' : Channel} {body : List Byte}
    (h : respondedWith s t c ch body) (hc : t.chans[c]? = some ch') : ch'.txbuf = appendChecksum body := by
  obtain ⟨hchan, -⟩ := h
  obtain rfl := Option.some.inj (hchan.symm.trans hc)
  rfl

/-- The body of the exception frame of a write request is a constant (R93, R209). -/
theorem exceptionBody_const : exceptionBody Const.unitAddr Const.fnWrite = [0x06, 0x98, 0x02] := by decide

/-- Settles O24: the exception's body is that of every write request, so its frame is the constant one, and the event's frame
is the request's header with a fresh checksum. -/
theorem illegalWriteTakesTheException : Obligations.IllegalWriteTakesTheException := by
  intro s c ch a v i hi hon hoff hc
  obtain ⟨t, hnext, hresp, hrs, houts⟩ := State.raiseIllegalDataAddress_respondedWith (.write a v) hc
  rw [Header.unit_write, Header.fn_write] at hresp
  refine ⟨t, _, (exec_illegalWrite hi hon hoff s).trans hnext, exceptionBody_const ▸ hresp, fun ch' hc' => ?_, hrs, houts,
    frameOf_header _, frameValid_frameOf _⟩
  exact (respondedWith_txbuf hresp hc').trans exceptionFrame_const

/-! ### A write to a threshold's register -/

/-- An accepted write is a delivery of its echo after the write of the store, and completes on every channel that exists
(R206, R211). -/
theorem exec_acceptedWrite_respondedWith {i : Instr} {s : State} {c : Nat} {ch : Channel} {a v : Word}
    (hi : Instr.acceptedWrite i c a v) (hc : s.chans[c]? = some ch) :
    ∃ t, exec i s = .next t ∧ respondedWith s t c ch (Header.write a v).bytes ∧ t.rs = s.rs.setThreshold a v ∧
      t.outputs = s.outputs := by
  rw [exec_acceptedWrite hi]
  exact State.respond_respondedWith (s := s.withStore (s.rs.setThreshold a v)) _ hc

/-- Settles O22: an accepted write of the on threshold's register. -/
theorem writeOnThresholdStoresAndEchoes : Obligations.WriteOnThresholdStoresAndEchoes := by
  intro s c ch v i hi hc
  exact exec_acceptedWrite_respondedWith (a := Const.regOnThr) (.inl ⟨rfl, hi⟩) hc

/-- Settles O23: an accepted write of the off threshold's register. -/
theorem writeOffThresholdStoresAndEchoes : Obligations.WriteOffThresholdStoresAndEchoes := by
  intro s c ch v i hi hc
  exact exec_acceptedWrite_respondedWith (a := Const.regOffThr) (.inr ⟨rfl, hi⟩) hc

end Sys2Proof.Machine

/-! PROOFS. The family of the reset: what a reset turn gives, in every state (R250). -/

namespace Sys2Proof.Machine

/-- A reset turn resets the engine, with no condition on the state, and the remaining turns stay (R250). -/
theorem step_reset {s : State} {rest : List Turn} (hs : s.schedule = .reset :: rest) :
    step s = .next { s with schedule := rest }.resetEngine :=
  step_turn hs

/-- Both buffers of every channel are empty after a reset (R38, R250). -/
theorem State.resetEngine_buffers_empty {s : State} {ch : Channel} (h : ch ∈ s.resetEngine.chans) :
    ch.rxbuf = [] ∧ ch.txbuf = [] := by
  obtain rfl : ch = Channel.empty := List.eq_of_mem_replicate h
  exact ⟨Channel.empty_rxbuf, Channel.empty_txbuf⟩

/-- Settles O40, from the fields of the engine after a reset. -/
theorem resetTurnRestoresEverything : Obligations.ResetTurnRestoresEverything := by
  intro s rest hs
  exact ⟨_, step_reset hs, rfl, rfl, rfl, rfl, rfl, rfl, rfl, List.length_replicate,
    fun _ => State.resetEngine_buffers_empty⟩

end Sys2Proof.Machine
